-- ==== Sys2Proof/Word.lean ====
section
/-! DEFINITION. The word types of the block: bytes, nibbles, 16-bit operands, the 72-bit host word
(spec/00_scope.md R9, spec/30_encoding.md R81). -/

namespace Sys2Proof

/-- A byte is 8 bits (R9). -/
abbrev Byte := BitVec 8

/-- A colour code as it is stored: NIB_BITS of R7 bits, tied to the
parameter by `Config.nibble_width` (R9). -/
abbrev Nibble := BitVec 4

/-- A coordinate or extent operand: XY_BITS = 16 bits, unsigned (R8, R83). -/
abbrev Coord := BitVec 16

/-- The host word `W` of 72 bits (R81). -/
abbrev HostWord := BitVec 72

end Sys2Proof
end

