-- ==== Sys2Proof/Config.lean ====
section
/-! DEFINITION. What is fixed for one machine: the parameters of spec/00_scope.md R7 (a record whose defaults
are the source's literals), the OPEN parameters of R8 (opaque: no claim can rest on a value), and the free
values of the environment (spec/00_scope.md R10 `draw`, spec/10_state.md R31). -/

namespace Sys2Proof

/-- The initialization fault input InitFault (R31, R220). -/
inductive InitFault where
  | none
  | resource
  | transport
  deriving DecidableEq, Repr, Inhabited

/-- The Transport's answer to a busy-wait (R160, R166). -/
inductive ReadyAnswer where
  | readyOk
  | timedOut
  deriving DecidableEq, Repr, Inhabited

namespace Config

/-- The parameters of R7 (D28). The literals are the source's and unaudited (log entry 10). -/
structure Params where
  width : Nat := 600
  height : Nat := 448
  nibBits : Nat := 4
  partialLimit : Nat := 5
  fullIntervalS : Nat := 180
  settleMs : Nat := 200
  pollIntervalMs : Nat := 10
  busyTimeoutMs : Nat := 40000
  white : Nibble := 1
  deriving DecidableEq, Repr

def params : Params := {}

/-- WIDTH (R7). -/
def width : Nat := params.width
/-- HEIGHT (R7). -/
def height : Nat := params.height
/-- NPIX = WIDTH * HEIGHT (R7). -/
def npix : Nat := width * height
/-- BUF_BYTES = ceil(NPIX / 2) (R7). -/
def bufBytes : Nat := (npix + 1) / 2
/-- NIB_BITS (R7). -/
def nibBits : Nat := params.nibBits
/-- PARTIAL_LIMIT (R7). -/
def partialLimit : Nat := params.partialLimit
/-- FULL_INTERVAL_S (R7). -/
def fullIntervalS : Nat := params.fullIntervalS
/-- SETTLE_MS (R7). -/
def settleMs : Nat := params.settleMs
/-- POLL_INTERVAL_MS (R7). -/
def pollIntervalMs : Nat := params.pollIntervalMs
/-- BUSY_TIMEOUT_MS (R7). -/
def busyTimeoutMs : Nat := params.busyTimeoutMs
/-- WHITE (R7). -/
def white : Nibble := params.white

@[simp] theorem width_eq : width = 600 := rfl
@[simp] theorem height_eq : height = 448 := rfl
@[simp] theorem npix_eq : npix = 268800 := rfl
@[simp] theorem bufBytes_eq : bufBytes = 134400 := rfl
@[simp] theorem partialLimit_eq : partialLimit = 5 := rfl
@[simp] theorem fullIntervalS_eq : fullIntervalS = 180 := rfl
@[simp] theorem nibBits_eq : nibBits = 4 := rfl
@[simp] theorem white_eq : white = 1 := rfl

/-- A stored colour code has NIB_BITS bits: the width in the type `Nibble` is the parameter's (R7). -/
theorem nibble_width : Nibble = BitVec nibBits := rfl

/-! ### OPEN parameters (R8, R88, R90, R91; D5, D17): one unknown value each, see log entry 9. -/

/-- TICK_HZ less one: TICK_HZ is a positive number of ticks per second and otherwise OPEN. -/
opaque tickHzPred : Nat

opaque cmdResolution : Byte
opaque cmdPanelSet : Byte
opaque cmdPowerSet : Byte
opaque cmdPllCtrl : Byte
opaque cmdTempEn : Byte
opaque cmdVcomDi : Byte
opaque cmdTconSet : Byte
opaque cmdDataMode : Byte
opaque cmdPwrSave : Byte
opaque cmdPoffSeq : Byte
opaque cmdDataStart : Byte
opaque cmdPowerOn : Byte
opaque cmdRefresh : Byte
opaque cmdPowerOff : Byte
opaque cmdPartWindow : Byte
opaque cmdPartIn : Byte
opaque cmdPartOut : Byte

opaque payResolution : List Byte
opaque payPanelSet : List Byte
opaque payPowerSet : List Byte
opaque payPllCtrl : List Byte
opaque payTempEn : List Byte
opaque payTconSet : List Byte
opaque payDataMode : List Byte
opaque payPwrSave : List Byte
opaque payPoffSeq : List Byte

/-- CdiPayload, a total function of the 3-bit border colour and of nothing else (R90). -/
opaque cdiPayload : BitVec 3 → List Byte

/-! ### Free values of the environment, indexed by the counter `env.draws` (log entries 5, 7, 8). -/

/-- CLK at hardware reset: R11 gives no epoch. -/
opaque clockAtReset : Nat
/-- The amount by which the environment advances CLK at the next occasion (R11). -/
opaque freeAdvance : Nat → Nat
/-- The next InitFault (R31). -/
opaque freeFault : Nat → InitFault
/-- The next answer to a WAIT (R31). -/
opaque freeReady : Nat → ReadyAnswer
/-- The next spare nibble (R114). -/
opaque freePad : Nat → Nibble
/-- An unspecified byte of BUF, by draw and byte address (R34, R36). -/
opaque freeBufByte : Nat → Nat → Byte
/-- An unspecified BORDER (R34, R36). -/
opaque freeBorder : Nat → BitVec 3
/-- An unspecified PCOUNT (R34, R36). -/
opaque freeCount : Nat → BitVec 32
/-- An unspecified LFRT (R34, R36). -/
opaque freeTime : Nat → Nat
/-- An unspecified EMU (R34, R36). -/
opaque freeEmu : Nat → Bool

/-- TICK_HZ, clock ticks per second (R8, R11). -/
def tickHz : Nat := tickHzPred + 1

/-- FULL_INTERVAL_T = FULL_INTERVAL_S * TICK_HZ ticks (R8, R143). -/
def fullIntervalT : Nat := fullIntervalS * tickHz

end Config

end Sys2Proof
end

