-- ==== Sys2Proof/Machine/State.lean ====
section
/-! DEFINITION. The state of the block (spec/10_state.md R20), its ports (spec/30_encoding.md R86,
spec/42_panel_sequencer.md R160), what the environment holds ready for it (R31), why a step can stop, and the
state after hardware reset (R34). -/

namespace Sys2Proof.Machine

/-- BUF as a list of (byte address, byte) pairs in canonical form: addresses strictly rising, no entry equal
to what an unlisted address reads as (`memWf`, `bufFill` in Ops). -/
abbrev Memory := List Host.Cell

/-- PSTATE (R25). -/
inductive PState where
  | uninitialized
  | configured
  | idle
  | busy
  | poweredOff
  deriving DecidableEq, Repr

/-- SEQ, the sequencer's step pointer (R27): NONE between operations, else the name of the step being executed,
from the tables of R164 (I0 to I10), R165 (T1 to T6), R167 (F0) and R169 (P1 to P4). -/
inductive SeqStep where
  | none
  | i0Reset
  | i1Resolution
  | i2PanelSet
  | i3PowerSet
  | i4PllCtrl
  | i5TempEn
  | i6VcomDi
  | i7TconSet
  | i8DataMode
  | i9PwrSave
  | i10PoffSeq
  | f0Data
  | p1Window
  | p2PartIn
  | p3Data
  | t1PowerOn
  | t2Settle
  | t3Refresh
  | t4Wait
  | t5PowerOff
  | t6Settle
  | p4PartOut
  deriving DecidableEq, Repr

/-- The operation whose sequence is in progress, with the operands its later steps need. The model's own
field: SEQ's step names are shared by the sequences, and R29 keeps no operand between operations, so this is
`idle` between operations. DEDUCED, log entry 12. -/
inductive Active where
  | idle
  | initialise
  | fullUpdate
  | regionUpdate (x y w h : Coord)
  deriving DecidableEq, Repr

/-- The status of a result (R86, R241). -/
inductive Status where
  | ok
  | failed
  | errBounds
  deriving DecidableEq, Repr

/-- The result triple (status, value, bytes) of an operation (R86). -/
structure Result where
  status : Status
  value : BitVec 32
  bytes : List Byte
  deriving DecidableEq, Repr

/-- The error classes in scope (R240). -/
inductive ErrorClass where
  | resourceFailure
  | transportFailure
  | boundsPixel
  | boundsRegion
  | boundsWindow
  | busyTimeout
  deriving DecidableEq, Repr

/-- The one warning code (R241). -/
inductive WarnCode where
  | busyTimeout
  deriving DecidableEq, Repr

/-- The event alphabet (R160). -/
inductive Event where
  /-- The reset pulse. -/
  | rst
  /-- `send_command(b)`. -/
  | cmd (b : Byte)
  /-- `send_data(bs)`, a non-empty list. -/
  | dat (bs : List Byte)
  /-- A settle delay of nominally `ms` milliseconds. -/
  | dly (ms : Nat)
  /-- `wait_ready(timeout)` with the Transport's answer. -/
  | wait (timeoutMs intervalMs : Nat) (r : ReadyAnswer)
  /-- The logged warning. -/
  | warn (code : WarnCode)
  deriving DecidableEq, Repr

/-- What the host hands to the block: an operation as its host word (R81), or a hardware reset (R270). -/
inductive HostInput where
  | word (w : HostWord)
  | hardwareReset
  deriving DecidableEq, Repr

/-- The environment's side of a step (R31): the clock, and the value it holds ready for the next draw of each
kind. After a draw the value is replaced by a free value of `Config`, indexed by `draws` (log entries 7, 8). -/
structure Env where
  /-- CLK (R11). -/
  clk : Nat
  /-- By how many ticks CLK advances at the next occasion (R11). -/
  advance : Nat
  /-- The next InitFault (R31). -/
  fault : InitFault
  /-- The answer to the next WAIT (R31). -/
  ready : ReadyAnswer
  /-- The next spare nibble (R114). -/
  pad : Nibble
  /-- How many free values have been drawn; the model's own. -/
  draws : Nat
  deriving DecidableEq, Repr

/-- The whole state (R20), the ports and the environment. -/
structure State where
  /-- BUF, the packed pixel buffer (R21). -/
  buf : Memory
  /-- RBUF, the bytes staged by extract_region (R28). -/
  rbuf : List Byte
  /-- BORDER (R22). -/
  border : BitVec 3
  /-- PCOUNT (R23). -/
  pcount : BitVec 32
  /-- LFRT in clock ticks (R24). -/
  lfrt : Nat
  /-- PSTATE (R25). -/
  pstate : PState
  /-- EMU (R26). -/
  emu : Bool
  /-- SEQ (R27). -/
  seq : SeqStep
  /-- The operation in progress (the model's own). -/
  active : Active
  /-- The host's operations the block has not taken yet, first one first (R6, R284). -/
  host : List HostInput
  /-- The result of the last operation that returned (R86). -/
  result : Option Result
  /-- The events of the operation in progress or last returned, first one first (R12, R160). -/
  trace : List Event
  /-- The environment (R31). -/
  env : Env
  deriving DecidableEq, Repr

/-- Why the machine stops with a fault. The spec's own error classes are no faults here: they are results of
operations (R240, R249). -/
inductive Fault where
  /-- DATA_START at step P3 with a staged rectangle that leaves BUF: the address does not exist (R54). Raised by
  `execDataStart` alone, in states no run reaches (region_update checks the bounds first). Safe. -/
  | outsideBuffer
  deriving DecidableEq, Repr

/-- Why a step is refused: the spec gives no meaning from here on (R10 `refuse`, R250). All are safe: the model
stops where the spec says nothing. -/
inductive Refusal where
  /-- An instruction the model gives no meaning; no arm of `exec` uses it. Safe. -/
  | notModelled (mnemonic : String)
  /-- A reserved host word (R85); raised by `step`. Safe. -/
  | reservedWord (w : HostWord)
  /-- A word of the reserved opcode 0x08, the excluded export_image (R85, R225); raised by `execExportImage`. Safe. -/
  | reservedOperation
  /-- An operation other than initialize without a context (R224); raised by `ifAdmitted`. Safe. -/
  | noContext
  /-- initialize while a context exists (R224); raised by `execInitialise`. Safe. -/
  | contextExists
  /-- A host operation while another is in progress (R62); raised by `ifAdmitted` and `execInitialise`. Safe. -/
  | operationInProgress
  /-- A rectangle with w = 0 or h = 0 (R114, R169); raised by `execExtractRegion`, `execRegionUpdate`. Safe. -/
  | zeroExtent
  /-- set_border with a colour above 7 (R222); raised by `execSetBorder`. Safe. -/
  | borderAboveSeven
  /-- RecordPartial at PCOUNT = 2^32 - 1 (R142, R148); raised by `execRegionUpdate`. Safe. -/
  | countOverflow
  /-- A panel command where the sequencer is not at its step (R27, R171); raised by the panel commands'
  meanings. Safe. -/
  | outOfSequence (mnemonic : String)
  deriving DecidableEq, Repr

/-- The three outcomes of a step of this machine. -/
abbrev StepOutcome := Host.Outcome State Fault Refusal

/-- The environment at hardware reset: nothing is known of it (log entries 7, 8). -/
def Env.reset : Env where
  clk := Config.clockAtReset
  advance := Config.freeAdvance 0
  fault := Config.freeFault 0
  ready := Config.freeReady 0
  pad := Config.freePad 0
  draws := 1

/-- The machine right after hardware reset (R34, R270): PSTATE = UNINITIALIZED, SEQ = NONE, no event, no
result; the values of BUF, RBUF, BORDER, PCOUNT, LFRT and EMU are the model's (log entries 3, 4, 13). -/
def State.reset : State where
  buf := []
  rbuf := []
  border := 1
  pcount := 0
  lfrt := 0
  pstate := .uninitialized
  emu := false
  seq := .none
  active := .idle
  host := []
  result := none
  trace := []
  env := Env.reset

end Sys2Proof.Machine
end

