-- ==== Sys2Proof/Machine/Flags.lean ====
section
/-! DEFINITION. What plays the part of flags (spec/10_state.md R30): the status of a result with its code, the
status an error class is reported as, and the advisory predicate of the refresh policy. -/

namespace Sys2Proof.Machine

/-- The 8-bit status code: OK = 0, FAILED = 1, ERR_BOUNDS = 2 (R241). -/
def statusCode : Status → BitVec 8
  | .ok => 0
  | .failed => 1
  | .errBounds => 2

/-- The status an error class is reported as (R240). -/
def statusOf : ErrorClass → Status
  | .resourceFailure => .failed
  | .transportFailure => .failed
  | .boundsPixel => .ok
  | .boundsRegion => .errBounds
  | .boundsWindow => .errBounds
  | .busyTimeout => .ok

/-- (OK, 0, []) (R86). -/
def okResult : Result := ⟨.ok, 0, []⟩

/-- ShouldFull: `PCOUNT >= PARTIAL_LIMIT or t - LFRT >= FULL_INTERVAL_T` (R143, R148). -/
def shouldFull (pcount : BitVec 32) (lfrt t : Nat) : Bool :=
  decide (Config.partialLimit ≤ pcount.toNat) || decide (Config.fullIntervalT ≤ t - lfrt)

end Sys2Proof.Machine
end

