-- ==== Sys2Proof/Machine/Operands.lean ====
section
/-! DEFINITION. The operand forms: colours, coordinates, rectangles, the window payload (spec/20_memory.md R51,
spec/30_encoding.md R83, R89, spec/40_pixelbuffer.md R114, R115). All arithmetic is on unbounded naturals. -/

namespace Sys2Proof.Machine

/-- `lo4(v)`: the low four bits (R9). -/
def lo4 (color : Byte) : Nibble := color.extractLsb' 0 4

/-- BORDER's default, WHITE in the three bits of the register (R22, R220). -/
def borderWhite : BitVec 3 := Config.white.setWidth 3

/-- `ceil2(n) = (n + 1) >> 1` (R9). -/
def ceil2 (n : Nat) : Nat := (n + 1) / 2

/-- A pixel coordinate lies in the buffer: not (x >= WIDTH or y >= HEIGHT) (R111, R112). -/
def inRange (x y : Nat) : Bool := decide (x < Config.width) && decide (y < Config.height)

/-- The pixel index `idx = y*WIDTH + x` (R51). -/
def pixelIndex (x y : Nat) : Nat := y * Config.width + x

/-- The byte address `baddr = idx >> 1` (R51). -/
def byteAddr (idx : Nat) : Nat := idx / 2

/-- The nibble select `nsel = idx[0]`; true selects the low nibble (R51). -/
def lowSelect (idx : Nat) : Bool := idx % 2 == 1

/-- `w = 0 or h = 0`: an extent the source gives no meaning (R114, R169). -/
def zeroExtent (w h : Coord) : Bool := decide (w.toNat = 0) || decide (h.toNat = 0)

/-- `x + w > WIDTH or y + h > HEIGHT`, the sums without wrap-around (R114, R115, R168). -/
def exceedsBounds (x y w h : Coord) : Bool :=
  decide (Config.width < x.toNat + w.toNat) || decide (Config.height < y.toNat + h.toNat)

/-- The pixel index of region-local index `k` of a rectangle of width `w` at `(x, y)`: column `k mod w`, row
`k div w` (R114). -/
def regionPixel (x y w k : Nat) : Nat := pixelIndex (x + k % w) (y + k / w)

/-- Two bytes of a 16-bit value, the more significant first (R56, R89). -/
def bigEndian (v : Nat) : List Byte := [BitVec.ofNat 8 (v / 256), BitVec.ofNat 8 v]

/-- The eight bytes of the partial window: x, y, x + w - 1, y + h - 1 (R89). -/
def windowBytes (x y w h : Coord) : List Byte :=
  bigEndian x.toNat ++ bigEndian y.toNat ++ bigEndian (x.toNat + w.toNat - 1) ++ bigEndian (y.toNat + h.toNat - 1)

end Sys2Proof.Machine
end

