-- ==== Sys2Proof/Machine/Ops.lean ====
section
/-! DEFINITION. The named operations over memory, clock, environment and ports: MemRead and MemWrite, NibRead
and NibWrite (spec/20_memory.md R52, R53), `now`, `emit`, `Wait`, admission, the return of a result, and raising an error (spec/60_exceptions.md
R249). -/

namespace Sys2Proof.Machine

/-! ### Memory -/

/-- What an address with no entry reads as: both nibbles WHITE, the creation fill of R35 (log entry 4). -/
def bufFill : Byte := Config.white ++ Config.white

/-- `MemRead(a, 1)` (R10). -/
def memRead : Memory → Nat → Byte
  | [], _ => bufFill
  | (k, v) :: rest, a => if k = a then v else memRead rest a

/-- An entry put before the rest, left out when it is what an unlisted address reads as. -/
def memCons (a : Nat) (v : Byte) (rest : Memory) : Memory := if v = bufFill then rest else (a, v) :: rest

/-- `MemWrite(a, 1, v)` (R10), keeping the canonical form. -/
def memWrite : Memory → Nat → Byte → Memory
  | [], a, v => memCons a v []
  | (k, w) :: rest, a, v =>
    if a < k then memCons a v ((k, w) :: rest)
    else if a = k then memCons a v rest
    else (k, w) :: memWrite rest a v

/-- `n` bytes from address `a` on, given by address. -/
def memOfFrom (f : Nat → Byte) : Nat → Nat → Memory
  | _, 0 => []
  | a, n + 1 => memCons a (f a) (memOfFrom f (a + 1) n)

/-- All of BUF, each byte given by its address. -/
def memOf (f : Nat → Byte) : Memory := memOfFrom f 0 Config.bufBytes

/-- MemWrite of one byte to every address of BUF (R113, R220). -/
def memFill (p : Byte) : Memory := if p = bufFill then [] else memOf (fun _ => p)

/-- The canonical form from address `lo` on: rising, inside BUF, no entry equal to `bufFill`. -/
def memWfFrom : Nat → Memory → Bool
  | _, [] => true
  | lo, (k, v) :: rest => decide (lo ≤ k) && decide (k < Config.bufBytes) && !(v == bufFill) && memWfFrom (k + 1) rest

/-- The canonical form of BUF. -/
def memWf (m : Memory) : Bool := memWfFrom 0 m

/-- `MemRead(0, BUF_BYTES)`: all bytes, address 0 first (R56, R167). -/
def memDump (m : Memory) : List Byte := (List.range Config.bufBytes).map (memRead m)

/-- The high nibble `b[7:4]` (R9). -/
def highNibble (b : Byte) : Nibble := b.extractLsb' 4 4

/-- The low nibble `b[3:0]` (R9). -/
def lowNibble (b : Byte) : Nibble := b.extractLsb' 0 4

/-- `{hi, lo}`: a byte from its nibbles (R9). -/
def byteOf (hi lo : Nibble) : Byte := hi ++ lo

/-- `NibRead(idx)` (R52). -/
def nibRead (m : Memory) (idx : Nat) : Nibble :=
  if lowSelect idx then lowNibble (memRead m (byteAddr idx)) else highNibble (memRead m (byteAddr idx))

/-- `NibWrite(idx, c)`: a read-modify-write of one byte (R53). -/
def nibWrite (m : Memory) (idx : Nat) (c : Nibble) : Memory :=
  let b := memRead m (byteAddr idx)
  memWrite m (byteAddr idx) (if lowSelect idx then byteOf (highNibble b) c else byteOf c (lowNibble b))

/-- Nibbles packed two to a byte, the even one high; a last odd one is followed by the spare nibble `pad`
(R55, R114). -/
def packNibbles (pad : Nibble) : List Nibble → List Byte
  | [] => []
  | [a] => [byteOf a pad]
  | a :: b :: rest => byteOf a b :: packNibbles pad rest

/-- The bytes extract_region builds for a rectangle inside BUF, the pixels row-major (R114). -/
def regionBytes (m : Memory) (x y w h : Nat) (pad : Nibble) : List Byte :=
  packNibbles pad ((List.range (w * h)).map (fun k => nibRead m (regionPixel x y w k)))

/-! ### Writing one register -/

/-- `BUF` as a whole. -/
def setBuf (m : Memory) (s : State) : State := { s with buf := m }
/-- `RBUF <- bs` (R28). -/
def setRbuf (bs : List Byte) (s : State) : State := { s with rbuf := bs }
/-- `BORDER <- v` (R22). -/
def setBorder (v : BitVec 3) (s : State) : State := { s with border := v }
/-- `PCOUNT <- v` (R23). -/
def setPcount (v : BitVec 32) (s : State) : State := { s with pcount := v }
/-- `LFRT <- t` (R24). -/
def setLfrt (t : Nat) (s : State) : State := { s with lfrt := t }
/-- `PSTATE <- p` (R25). -/
def setPstate (p : PState) (s : State) : State := { s with pstate := p }
/-- `EMU <- e` (R26). -/
def setEmu (e : Bool) (s : State) : State := { s with emu := e }
/-- `SEQ <- q` (R27). -/
def setSeq (q : SeqStep) (s : State) : State := { s with seq := q }
/-- The operation whose sequence is in progress. -/
def setActive (a : Active) (s : State) : State := { s with active := a }
/-- The host's inputs not taken yet. -/
def setHost (h : List HostInput) (s : State) : State := { s with host := h }

/-! ### The environment -/

/-- The environment advances the clock (R11); the next amount is a free value. -/
def tick (s : State) : State :=
  { s with env := { s.env with
      clk := s.env.clk + s.env.advance
      advance := Config.freeAdvance s.env.draws
      draws := s.env.draws + 1 } }

/-- After a draw of InitFault the next one is a free value (R31). -/
def redrawFault (s : State) : State :=
  { s with env := { s.env with fault := Config.freeFault s.env.draws, draws := s.env.draws + 1 } }

/-- After an answer to a WAIT the next one is a free value (R31). -/
def redrawReady (s : State) : State :=
  { s with env := { s.env with ready := Config.freeReady s.env.draws, draws := s.env.draws + 1 } }

/-- After a draw of a spare nibble the next one is a free value (R114). -/
def redrawPad (s : State) : State :=
  { s with env := { s.env with pad := Config.freePad s.env.draws, draws := s.env.draws + 1 } }

/-- InitFault as initialize sees it: TRANSPORT cannot occur when no device is opened (R220, log entry 22). -/
def initFault (emulated : Bool) (f : InitFault) : InitFault :=
  if emulated && f == .transport then .none else f

/-! ### The trace -/

/-- `emit`: events appended to the trace, dropped when EMU = 1 (R160, R162). -/
def emit (es : List Event) (s : State) : State :=
  { s with trace := if s.emu then s.trace else s.trace ++ es }

/-- `Step(b, bs)`: the command event, then the data event unless the list is empty (R161). -/
def stepEvents (b : Byte) (bs : List Byte) : List Event := .cmd b :: (if bs = [] then [] else [.dat bs])

/-- One protocol step (R161). -/
def sendStep (b : Byte) (bs : List Byte) (s : State) : State := emit (stepEvents b bs) s

/-- The events of a busy-wait answered `r` (R166). -/
def waitEvents (r : ReadyAnswer) : List Event :=
  .wait Config.busyTimeoutMs Config.pollIntervalMs r :: (if r = .timedOut then [.warn .busyTimeout] else [])

/-- `Wait()`: READY_OK at once when EMU = 1; else the event with the Transport's answer, which is drawn, and the
warning when it is TIMED_OUT (R166). -/
def busyWait (s : State) : State :=
  if s.emu then s else redrawReady (emit (waitEvents s.env.ready) s)

/-! ### Operations as the host sees them -/

/-- The start of an operation: an empty trace, no result yet (R12). -/
def beginOp (s : State) : State := { s with result := none, trace := [] }

/-- `return (status, value, bytes)`: the operation ends, SEQ = NONE, nothing is staged, and time may have passed
(R11, R12, R86). -/
def complete (r : Result) (s : State) : State :=
  tick { s with seq := .none, active := .idle, rbuf := [], result := some r }

/-- `raise X`: taking an error. It ends the operation with the status of X, value 0 and no bytes; nothing is
saved, no mode changes and control goes nowhere (R249). There is no return from it (R250). -/
def raise (x : ErrorClass) (s : State) : State := complete ⟨statusOf x, 0, []⟩ s

/-- Admission of an operation other than initialize: no operation in progress (R62), and a context exists
(R224). -/
def ifAdmitted (s : State) (run : StepOutcome) : StepOutcome :=
  if s.seq ≠ .none then .refused .operationInProgress
  else if s.pstate = .uninitialized then .refused .noContext
  else run

/-- Every piece of state that the spec leaves unspecified without a context, as free values (R34, R36; log entry 5). -/
def forget (s : State) : State :=
  { s with
    buf := memOf (Config.freeBufByte s.env.draws)
    border := Config.freeBorder s.env.draws
    pcount := Config.freeCount s.env.draws
    lfrt := Config.freeTime s.env.draws
    emu := Config.freeEmu s.env.draws
    env := { s.env with draws := s.env.draws + 1 } }

end Sys2Proof.Machine
end

