-- ==== Sys2Proof/Machine/PixelBuffer.lean ====
section
/-! DEFINITION. The pixel buffer operations: set_pixel, get_pixel, clear, extract_region
(spec/40_pixelbuffer.md R110 to R114). -/

namespace Sys2Proof.Machine

/-- set_pixel(x, y, color) (R111). -/
def execSetPixel (x y : Coord) (color : Byte) (s : State) : StepOutcome :=
  ifAdmitted s <|
    if inRange x.toNat y.toNat then
      .next (complete okResult (setBuf (nibWrite s.buf (pixelIndex x.toNat y.toNat) (lo4 color)) (beginOp s)))
    else .next (raise .boundsPixel (beginOp s))

/-- get_pixel(x, y) (R112). -/
def execGetPixel (x y : Coord) (s : State) : StepOutcome :=
  ifAdmitted s <|
    if inRange x.toNat y.toNat then
      .next (complete ⟨.ok, (nibRead s.buf (pixelIndex x.toNat y.toNat)).zeroExtend 32, []⟩ (beginOp s))
    else .next (raise .boundsPixel (beginOp s))

/-- clear(color) (R113). -/
def execClear (color : Byte) (s : State) : StepOutcome :=
  ifAdmitted s <| .next (complete okResult (setBuf (memFill (byteOf (lo4 color) (lo4 color))) (beginOp s)))

/-- Fill RBUF with a rectangle of BUF, drawing the spare nibble when w*h is odd (R114). Also the step of
region_update that builds its payload (R169). -/
def stageRegion (x y w h : Coord) (s : State) : State :=
  let s1 := setRbuf (regionBytes s.buf x.toNat y.toNat w.toNat h.toNat s.env.pad) s
  if w.toNat * h.toNat % 2 = 1 then redrawPad s1 else s1

/-- extract_region(x, y, w, h) (R114). -/
def execExtractRegion (x y w h : Coord) (s : State) : StepOutcome :=
  ifAdmitted s <|
    if zeroExtent w h then .refused .zeroExtent
    else if exceedsBounds x y w h then .next (raise .boundsRegion (beginOp s))
    else
      let s1 := stageRegion x y w h (beginOp s)
      .next (complete ⟨.ok, BitVec.ofNat 32 (ceil2 (w.toNat * h.toNat)), s1.rbuf⟩ s1)

end Sys2Proof.Machine
end

