-- ==== Sys2Proof/Machine/RefreshPolicy.lean ====
section
/-! DEFINITION. The refresh policy: its two transitions and its two observers (spec/41_refresh_policy.md R140 to
R144). -/

namespace Sys2Proof.Machine

/-- RecordFull: PCOUNT <- 0, LFRT <- a clock reading taken during the operation (R141). -/
def recordFull (s : State) : State :=
  let s1 := tick s
  setLfrt s1.env.clk (setPcount 0 s1)

/-- RecordPartial cannot count on: PCOUNT = 2^PCOUNT_BITS - 1 (R142, R148). -/
def countAtMax (s : State) : Bool := s.pcount.toNat == 2 ^ 32 - 1

/-- RecordPartial below the maximum: PCOUNT <- PCOUNT + 1 (R142). -/
def recordPartial (s : State) : State := setPcount (s.pcount + 1) s

/-- should_full_refresh() (R143): `t = now()` is one reading taken during the operation. -/
def execShouldFullRefresh (s : State) : StepOutcome :=
  ifAdmitted s <|
    let s1 := tick (beginOp s)
    .next (complete ⟨.ok, if shouldFull s1.pcount s1.lfrt s1.env.clk then 1 else 0, []⟩ s1)

/-- partial_count() (R144). -/
def execPartialCount (s : State) : StepOutcome :=
  ifAdmitted s <| .next (complete ⟨.ok, s.pcount, []⟩ (beginOp s))

end Sys2Proof.Machine
end

