-- ==== Sys2Proof/Syntax.lean ====
section
/-! DEFINITION. The colour names and the instructions: one constructor per row of spec/opcode_table.json. The first twelve are the
host operations of spec/30_encoding.md R80 and R84, the last seventeen the panel commands of R88, which the
sequencer sends one at a time (spec/42_panel_sequencer.md R164, R165, R167, R169). -/

namespace Sys2Proof

/-- The eight colour names (R12). The source confirms WHITE alone by its number (log entry 20). -/
inductive Colour where
  | black
  | white
  | green
  | blue
  | red
  | yellow
  | orange
  | clean
  deriving DecidableEq, Repr

inductive Instr where
  /-- initialize(emulated), format I (R220). -/
  | initialise (emulated : Bool)
  /-- destroy(), format N (R221). -/
  | destroy
  /-- clear(color), format C (R113). -/
  | clear (color : Byte)
  /-- set_pixel(x, y, color), format Q (R111). -/
  | setPixel (x y : Coord) (color : Byte)
  /-- get_pixel(x, y), format P (R112). -/
  | getPixel (x y : Coord)
  /-- set_border(color), format C (R222). -/
  | setBorder (color : Byte)
  /-- full_update(), format N (R167). -/
  | fullUpdate
  /-- region_update(x, y, w, h), format R (R169). -/
  | regionUpdate (x y w h : Coord)
  /-- should_full_refresh(), format N (R143). -/
  | shouldFullRefresh
  /-- partial_count(), format N (R144). -/
  | partialCount
  /-- extract_region(x, y, w, h), format R (R114). -/
  | extractRegion (x y w h : Coord)
  /-- The reserved opcode 0x08 of the excluded export_image; `rest` is W[63:0] (R85, R225). -/
  | exportImage (rest : BitVec 64)
  /-- "resolution setting", init step I1 (R88). -/
  | resolution
  /-- "panel setting", init step I2 (R88). -/
  | panelSet
  /-- "power setting", init step I3 (R88). -/
  | powerSet
  /-- "PLL control", init step I4 (R88). -/
  | pllCtrl
  /-- "temperature-sensor enable", init step I5 (R88). -/
  | tempEn
  /-- "VCOM/data-interval setting (encodes border color)", init step I6 (R88, R90). -/
  | vcomDi
  /-- "TCON setting", init step I7 (R88). -/
  | tconSet
  /-- "data-mode setting", init step I8 (R88). -/
  | dataMode
  /-- "power-saving setting", init step I9 (R88). -/
  | pwrSave
  /-- "power-off-sequence setting", init step I10 (R88). -/
  | poffSeq
  /-- "data-start-transmission command", steps F0 and P3 (R88). -/
  | dataStart
  /-- "power-on command", step T1 (R88). -/
  | powerOn
  /-- "display-refresh command", step T3 (R88). -/
  | refresh
  /-- "power-off command", step T5 (R88). -/
  | powerOff
  /-- "program a partial window", step P1 (R88, R89). -/
  | partWindow
  /-- "enter partial mode command", step P2 (R88). -/
  | partIn
  /-- "exit partial mode command", step P4 (R88). -/
  | partOut
  deriving DecidableEq, Repr

end Sys2Proof
end

