-- ==== Sys2Proof/Machine/Sequencer.lean ====
section
/-! DEFINITION. The panel command sequencer below the operations: the step tables, what each step does, and how
SEQ moves (spec/42_panel_sequencer.md R161 to R170). One step at a time is `microStep`; a whole sequence is
`runSteps`. -/

namespace Sys2Proof.Machine

/-! ### The step tables -/

/-- InitSeq, steps I0 to I10 (R164). -/
def initSteps : List SeqStep :=
  [.i0Reset, .i1Resolution, .i2PanelSet, .i3PowerSet, .i4PllCtrl, .i5TempEn, .i6VcomDi, .i7TconSet, .i8DataMode,
   .i9PwrSave, .i10PoffSeq]

/-- RefreshTail, steps T1 to T6 (R165). -/
def tailSteps : List SeqStep := [.t1PowerOn, .t2Settle, .t3Refresh, .t4Wait, .t5PowerOff, .t6Settle]

/-- The steps of the sequence in progress, in table order (R164, R167, R169). -/
def sequenceOf : Active → List SeqStep
  | .idle => []
  | .initialise => initSteps
  | .fullUpdate => .f0Data :: tailSteps
  | .regionUpdate _ _ _ _ => initSteps ++ [.p1Window, .p2PartIn, .p3Data] ++ tailSteps ++ [.p4PartOut]

/-- The step after `q` in a table, NONE after the last (R27). -/
def following (q : SeqStep) : List SeqStep → SeqStep
  | [] => .none
  | a :: rest => if a = q then rest.headD .none else following q rest

/-- A step is complete: SEQ advances by exactly one step in table order, and after the last step the operation
returns (OK, 0, []) (R27, R167, R169, R220). Time may have passed (R11). -/
def advanceSeq (s : State) : State :=
  match following s.seq (sequenceOf s.active) with
  | .none => complete okResult s
  | q => tick (setSeq q s)

/-! ### What the panel commands send (R88, R164, R165, R169) -/

/-- Step I1 (R164). -/
def sendResolution (s : State) : State := sendStep Config.cmdResolution Config.payResolution s
/-- Step I2 (R164). -/
def sendPanelSet (s : State) : State := sendStep Config.cmdPanelSet Config.payPanelSet s
/-- Step I3 (R164). -/
def sendPowerSet (s : State) : State := sendStep Config.cmdPowerSet Config.payPowerSet s
/-- Step I4 (R164). -/
def sendPllCtrl (s : State) : State := sendStep Config.cmdPllCtrl Config.payPllCtrl s
/-- Step I5 (R164). -/
def sendTempEn (s : State) : State := sendStep Config.cmdTempEn Config.payTempEn s
/-- Step I6: BORDER as it is when the step is sent (R90, R164). -/
def sendVcomDi (s : State) : State := sendStep Config.cmdVcomDi (Config.cdiPayload s.border) s
/-- Step I7 (R164). -/
def sendTconSet (s : State) : State := sendStep Config.cmdTconSet Config.payTconSet s
/-- Step I8 (R164). -/
def sendDataMode (s : State) : State := sendStep Config.cmdDataMode Config.payDataMode s
/-- Step I9 (R164). -/
def sendPwrSave (s : State) : State := sendStep Config.cmdPwrSave Config.payPwrSave s
/-- Step I10, after which PSTATE is CONFIGURED (R163, R164). -/
def sendPoffSeq (s : State) : State :=
  setPstate .configured (sendStep Config.cmdPoffSeq Config.payPoffSeq s)
/-- Step F0: the whole of BUF (R56, R167). -/
def sendBuffer (s : State) : State := sendStep Config.cmdDataStart (memDump s.buf) s
/-- Step P3: the rectangle is extracted into RBUF and sent (R169). Without a region update in progress there is
no rectangle. -/
def sendRegion (s : State) : State :=
  match s.active with
  | .regionUpdate x y w h =>
    let s1 := stageRegion x y w h s
    sendStep Config.cmdDataStart s1.rbuf s1
  | .idle | .initialise | .fullUpdate => sendStep Config.cmdDataStart s.rbuf s
/-- Step T1 (R165). -/
def sendPowerOn (s : State) : State := sendStep Config.cmdPowerOn [] s
/-- Step T3, after which PSTATE is BUSY (R163, R165). -/
def sendRefresh (s : State) : State := setPstate .busy (sendStep Config.cmdRefresh [] s)
/-- Step T5 (R165). -/
def sendPowerOff (s : State) : State := sendStep Config.cmdPowerOff [] s
/-- The window payload of the region update in progress (R89); there is none without one. -/
def windowOf : Active → List Byte
  | .regionUpdate x y w h => windowBytes x y w h
  | .idle | .initialise | .fullUpdate => []
/-- Step P1 (R169). -/
def sendPartWindow (s : State) : State := sendStep Config.cmdPartWindow (windowOf s.active) s
/-- Step P2 (R169). -/
def sendPartIn (s : State) : State := sendStep Config.cmdPartIn [] s
/-- Step P4, which leaves PSTATE as it is (R169). -/
def sendPartOut (s : State) : State := sendStep Config.cmdPartOut [] s

/-- The settle delay of steps T2 and T6 (R165). -/
def settle (after : PState) (s : State) : State := setPstate after (emit [.dly Config.settleMs] s)

/-- What the block does at a sequencer step (R164, R165, R167, R169). -/
def seqAction (q : SeqStep) (s : State) : State :=
  match q with
  | .none => s
  | .i0Reset => emit [.rst] s
  | .i1Resolution => sendResolution s
  | .i2PanelSet => sendPanelSet s
  | .i3PowerSet => sendPowerSet s
  | .i4PllCtrl => sendPllCtrl s
  | .i5TempEn => sendTempEn s
  | .i6VcomDi => sendVcomDi s
  | .i7TconSet => sendTconSet s
  | .i8DataMode => sendDataMode s
  | .i9PwrSave => sendPwrSave s
  | .i10PoffSeq => sendPoffSeq s
  | .f0Data => sendBuffer s
  | .p1Window => sendPartWindow s
  | .p2PartIn => sendPartIn s
  | .p3Data => sendRegion s
  | .t1PowerOn => sendPowerOn s
  | .t2Settle => settle .idle s
  | .t3Refresh => sendRefresh s
  | .t4Wait => setPstate .idle (busyWait s)
  | .t5PowerOff => sendPowerOff s
  | .t6Settle => settle .poweredOff s
  | .p4PartOut => sendPartOut s

/-- The step SEQ names, then SEQ advances (R27, R170). -/
def microStep (s : State) : State := advanceSeq (seqAction s.seq s)

/-- The steps of a table one after another, as the pseudocode writes them: `SEQ <- q`, then the step (R164, R165,
R167, R169). -/
def runSteps : List SeqStep → State → State
  | [], s => s
  | q :: rest, s => runSteps rest (advanceSeq (seqAction q (setSeq q s)))

/-- The panel command a sequencer step sends (R88); steps I0, T2, T4 and T6 send none. -/
def commandAt : SeqStep → Option Instr
  | .none | .i0Reset | .t2Settle | .t4Wait | .t6Settle => none
  | .i1Resolution => some .resolution
  | .i2PanelSet => some .panelSet
  | .i3PowerSet => some .powerSet
  | .i4PllCtrl => some .pllCtrl
  | .i5TempEn => some .tempEn
  | .i6VcomDi => some .vcomDi
  | .i7TconSet => some .tconSet
  | .i8DataMode => some .dataMode
  | .i9PwrSave => some .pwrSave
  | .i10PoffSeq => some .poffSeq
  | .f0Data | .p3Data => some .dataStart
  | .p1Window => some .partWindow
  | .p2PartIn => some .partIn
  | .t1PowerOn => some .powerOn
  | .t3Refresh => some .refresh
  | .t5PowerOff => some .powerOff
  | .p4PartOut => some .partOut

end Sys2Proof.Machine
end

