-- ==== Sys2Proof/Machine/PanelCommands.lean ====
section
/-! DEFINITION. The seventeen panel commands (spec/30_encoding.md R88): each is sent at its own step of the
sequencer, after which SEQ advances (spec/42_panel_sequencer.md R161, R164, R165, R169). Anywhere else the block
does not send it: the order "must not be reordered or skipped" (R27, R171; log entry 11). -/

namespace Sys2Proof.Machine

/-- A panel command sent at its step `q`; elsewhere it is out of sequence. -/
def atStep (q : SeqStep) (name : String) (s sent : State) : StepOutcome :=
  if s.seq = q then .next (advanceSeq sent) else .refused (.outOfSequence name)

/-- RESOLUTION: step I1 (R164). -/
def execResolution (s : State) : StepOutcome := atStep .i1Resolution "RESOLUTION" s (sendResolution s)

/-- PANEL_SET: step I2 (R164). -/
def execPanelSet (s : State) : StepOutcome := atStep .i2PanelSet "PANEL_SET" s (sendPanelSet s)

/-- POWER_SET: step I3 (R164). -/
def execPowerSet (s : State) : StepOutcome := atStep .i3PowerSet "POWER_SET" s (sendPowerSet s)

/-- PLL_CTRL: step I4 (R164). -/
def execPllCtrl (s : State) : StepOutcome := atStep .i4PllCtrl "PLL_CTRL" s (sendPllCtrl s)

/-- TEMP_EN: step I5 (R164). -/
def execTempEn (s : State) : StepOutcome := atStep .i5TempEn "TEMP_EN" s (sendTempEn s)

/-- VCOM_DI: step I6, the border colour in its payload (R90, R164). -/
def execVcomDi (s : State) : StepOutcome := atStep .i6VcomDi "VCOM_DI" s (sendVcomDi s)

/-- TCON_SET: step I7 (R164). -/
def execTconSet (s : State) : StepOutcome := atStep .i7TconSet "TCON_SET" s (sendTconSet s)

/-- DATA_MODE: step I8 (R164). -/
def execDataMode (s : State) : StepOutcome := atStep .i8DataMode "DATA_MODE" s (sendDataMode s)

/-- PWR_SAVE: step I9 (R164). -/
def execPwrSave (s : State) : StepOutcome := atStep .i9PwrSave "PWR_SAVE" s (sendPwrSave s)

/-- POFF_SEQ: step I10, then PSTATE is CONFIGURED (R163, R164). -/
def execPoffSeq (s : State) : StepOutcome := atStep .i10PoffSeq "POFF_SEQ" s (sendPoffSeq s)

/-- POWER_ON: step T1 (R165). -/
def execPowerOn (s : State) : StepOutcome := atStep .t1PowerOn "POWER_ON" s (sendPowerOn s)

/-- REFRESH: step T3, then PSTATE is BUSY (R163, R165). -/
def execRefresh (s : State) : StepOutcome := atStep .t3Refresh "REFRESH" s (sendRefresh s)

/-- POWER_OFF: step T5 (R165). -/
def execPowerOff (s : State) : StepOutcome := atStep .t5PowerOff "POWER_OFF" s (sendPowerOff s)

/-- PART_WINDOW: step P1, the eight window bytes (R89, R169). -/
def execPartWindow (s : State) : StepOutcome := atStep .p1Window "PART_WINDOW" s (sendPartWindow s)

/-- PART_IN: step P2 (R169). -/
def execPartIn (s : State) : StepOutcome := atStep .p2PartIn "PART_IN" s (sendPartIn s)

/-- PART_OUT: step P4 (R169). -/
def execPartOut (s : State) : StepOutcome := atStep .p4PartOut "PART_OUT" s (sendPartOut s)

/-- The rectangle of the region update in progress leaves BUF. -/
def stagedOutside : Active → Bool
  | .regionUpdate x y w h => exceedsBounds x y w h
  | .idle | .initialise | .fullUpdate => false

/-- DATA_START: step F0 sends BUF (R167), step P3 the extracted rectangle (R169). A rectangle that leaves BUF
would be read outside it (R54); region_update never stages one (log entry 23). -/
def execDataStart (s : State) : StepOutcome :=
  if s.seq = .f0Data then .next (advanceSeq (sendBuffer s))
  else if s.seq = .p3Data && stagedOutside s.active then .fault .outsideBuffer
  else atStep .p3Data "DATA_START" s (sendRegion s)

end Sys2Proof.Machine
end

