-- ==== Sys2Proof/Machine/SystemOps.lean ====
section
/-! DEFINITION. The system operations initialize, destroy, set_border, the reserved export_image
(spec/43_system.md R220 to R225), hardware reset (spec/70_reset_and_hazards.md R270) and the idle block. -/

namespace Sys2Proof.Machine

/-- The fresh context up to the first step of InitSeq: PCOUNT <- 0 and LFRT <- a reading are those of RecordFull
(R220, R35). -/
def startInitialise (emulated : Bool) (s : State) : State :=
  let s1 := setBorder borderWhite (setBuf (memFill (byteOf Config.white Config.white)) (setEmu emulated s))
  setSeq .i0Reset (setActive .initialise (recordFull s1))

/-- initialize once InitFault is drawn: a failure changes no register and no byte and emits nothing (R220, R249;
log entry 6), success creates the context and runs InitSeq. -/
def initialiseWith (emulated : Bool) (f : InitFault) (s : State) : State :=
  match initFault emulated f with
  | .resource => raise .resourceFailure s
  | .transport => raise .transportFailure s
  | .none => runSteps (sequenceOf .initialise) (startInitialise emulated s)

/-- initialize(emulated) (R220). -/
def execInitialise (emulated : Bool) (s : State) : StepOutcome :=
  if s.seq ≠ .none then .refused .operationInProgress
  else if s.pstate ≠ .uninitialized then .refused .contextExists
  else .next (initialiseWith emulated s.env.fault (redrawFault (beginOp s)))

/-- destroy() (R221). -/
def execDestroy (s : State) : StepOutcome :=
  ifAdmitted s <| .next (complete okResult (setPstate .uninitialized (forget (beginOp s))))

/-- set_border(color) (R222). -/
def execSetBorder (color : Byte) (s : State) : StepOutcome :=
  ifAdmitted s <|
    if 7 < color.toNat then .refused .borderAboveSeven
    else .next (complete okResult (setBorder (color.extractLsb' 0 3) (beginOp s)))

/-- A word of the reserved opcode 0x08 has no meaning (R85, R225). -/
def execExportImage (_rest : BitVec 64) (_s : State) : StepOutcome := .refused .reservedOperation

/-- Hardware reset between operations (R270): PSTATE = UNINITIALIZED, SEQ = NONE, everything else unspecified, no
event, no result. The host's later operations and the clock are not the block's. DESIGN CHOICE, log entry 8: CLK may
advance here too, by a free amount; R11 allows it and does not place it. -/
def hardwareReset (s : State) : State :=
  tick (setPstate .uninitialized (setSeq .none (setActive .idle (setRbuf [] (forget (beginOp s))))))

/-- No operation pending: the block is idle and time may pass (R257, R285). -/
def idleStep (s : State) : State := tick s

end Sys2Proof.Machine
end

