-- ==== Sys2Proof/Machine/Updates.lean ====
section
/-! DEFINITION. The update operations full_update and region_update (spec/42_panel_sequencer.md R167 to R169). -/

namespace Sys2Proof.Machine

/-- full_update up to its first step: RecordFull, then SEQ <- F0 (R167). -/
def startFullUpdate (s : State) : State :=
  setSeq .f0Data (setActive .fullUpdate (recordFull (beginOp s)))

/-- full_update() (R167). -/
def execFullUpdate (s : State) : StepOutcome :=
  ifAdmitted s <| .next (runSteps (sequenceOf .fullUpdate) (startFullUpdate s))

/-- region_update up to its first step: RecordPartial, then SEQ <- I0 (R169). -/
def startRegionUpdate (x y w h : Coord) (s : State) : State :=
  setSeq .i0Reset (setActive (.regionUpdate x y w h) (recordPartial (beginOp s)))

/-- region_update(x, y, w, h): the checks in the order of R248, then RecordPartial and the sequence (R168,
R169). -/
def execRegionUpdate (x y w h : Coord) (s : State) : StepOutcome :=
  ifAdmitted s <|
    if zeroExtent w h then .refused .zeroExtent
    else if exceedsBounds x y w h then .next (raise .boundsWindow (beginOp s))
    else if countAtMax s then .refused .countOverflow
    else .next (runSteps (sequenceOf (.regionUpdate x y w h)) (startRegionUpdate x y w h s))

end Sys2Proof.Machine
end

