-- ==== Sys2Proof/Machine/Dispatch.lean ====
section
/-! DEFINITION. The meaning of each instruction, one arm per constructor. -/

namespace Sys2Proof.Machine

def exec (i : Instr) (s : State) : Host.Outcome State Fault Refusal :=
  match i with
  | .initialise b => Sys2Proof.Machine.execInitialise b s
  | .destroy => Sys2Proof.Machine.execDestroy s
  | .clear c => Sys2Proof.Machine.execClear c s
  | .setPixel x y c => Sys2Proof.Machine.execSetPixel x y c s
  | .getPixel x y => Sys2Proof.Machine.execGetPixel x y s
  | .setBorder c => Sys2Proof.Machine.execSetBorder c s
  | .fullUpdate => Sys2Proof.Machine.execFullUpdate s
  | .regionUpdate x y w h => Sys2Proof.Machine.execRegionUpdate x y w h s
  | .shouldFullRefresh => Sys2Proof.Machine.execShouldFullRefresh s
  | .partialCount => Sys2Proof.Machine.execPartialCount s
  | .extractRegion x y w h => Sys2Proof.Machine.execExtractRegion x y w h s
  | .exportImage rest => Sys2Proof.Machine.execExportImage rest s
  | .resolution => Sys2Proof.Machine.execResolution s
  | .panelSet => Sys2Proof.Machine.execPanelSet s
  | .powerSet => Sys2Proof.Machine.execPowerSet s
  | .pllCtrl => Sys2Proof.Machine.execPllCtrl s
  | .tempEn => Sys2Proof.Machine.execTempEn s
  | .vcomDi => Sys2Proof.Machine.execVcomDi s
  | .tconSet => Sys2Proof.Machine.execTconSet s
  | .dataMode => Sys2Proof.Machine.execDataMode s
  | .pwrSave => Sys2Proof.Machine.execPwrSave s
  | .poffSeq => Sys2Proof.Machine.execPoffSeq s
  | .dataStart => Sys2Proof.Machine.execDataStart s
  | .powerOn => Sys2Proof.Machine.execPowerOn s
  | .refresh => Sys2Proof.Machine.execRefresh s
  | .powerOff => Sys2Proof.Machine.execPowerOff s
  | .partWindow => Sys2Proof.Machine.execPartWindow s
  | .partIn => Sys2Proof.Machine.execPartIn s
  | .partOut => Sys2Proof.Machine.execPartOut s

end Sys2Proof.Machine
end

