-- ==== Sys2Proof/Decode.lean ====
section
/-! DEFINITION. The decoder of the host word (spec/30_encoding.md R81 to R85), the encoder beside it, the panel
commands' bytes (R88), and the textual form of an operation (R93). -/

namespace Sys2Proof

/-! ### The host word -/

/-- `op = W[71:64]` (R81). -/
def fieldOp (w : HostWord) : BitVec 8 := w.extractLsb' 64 8
/-- `a = W[63:48]` (R81). -/
def fieldA (w : HostWord) : BitVec 16 := w.extractLsb' 48 16
/-- `b = W[47:32]` (R81). -/
def fieldB (w : HostWord) : BitVec 16 := w.extractLsb' 32 16
/-- `c = W[31:16]` (R81). -/
def fieldC (w : HostWord) : BitVec 16 := w.extractLsb' 16 16
/-- `d = W[15:0]` (R81). -/
def fieldD (w : HostWord) : BitVec 16 := w.extractLsb' 0 16
/-- The low byte of a field: a colour operand (R82, R83). -/
def lowByte (f : BitVec 16) : Byte := f.extractLsb' 0 8
/-- The high byte of a field, all must-be-zero bits beside a colour operand (R82). -/
def highByte (f : BitVec 16) : Byte := f.extractLsb' 8 8

/-- Why a host word is reserved (R85). -/
inductive DecodeError where
  /-- No operation has this opcode (0x0C to 0xFF). -/
  | unassignedOpcode (op : BitVec 8)
  /-- The opcode is assigned and a must-be-zero bit of its format is 1. -/
  | mustBeZero (op : BitVec 8)
  deriving DecidableEq, Repr

/-- `i` when the format's must-be-zero bits are zero, else the word is reserved (R82, R85). -/
def requireZero (op : BitVec 8) (zero : Bool) (i : Instr) : Except DecodeError Instr :=
  if zero then .ok i else .error (.mustBeZero op)

/-- The host operation a 72-bit host word stands for (R82, R84), or why it is reserved (R85). Every word with
opcode 0x08 is the reserved row export_image. -/
def decode (w : HostWord) : Except DecodeError Instr :=
  let op := fieldOp w
  let a := fieldA w
  let b := fieldB w
  let c := fieldC w
  let d := fieldD w
  match op.toNat with
  | 0x00 => requireZero op (a.extractLsb' 1 15 == 0 && b == 0 && c == 0 && d == 0) (.initialise (a.getLsbD 0))
  | 0x01 => requireZero op (a == 0 && b == 0 && c == 0 && d == 0) .destroy
  | 0x02 => requireZero op (highByte a == 0 && b == 0 && c == 0 && d == 0) (.clear (lowByte a))
  | 0x03 => requireZero op (highByte c == 0 && d == 0) (.setPixel a b (lowByte c))
  | 0x04 => requireZero op (c == 0 && d == 0) (.getPixel a b)
  | 0x05 => requireZero op (highByte a == 0 && b == 0 && c == 0 && d == 0) (.setBorder (lowByte a))
  | 0x06 => requireZero op (a == 0 && b == 0 && c == 0 && d == 0) .fullUpdate
  | 0x07 => .ok (.regionUpdate a b c d)
  | 0x08 => .ok (.exportImage (w.extractLsb' 0 64))
  | 0x09 => requireZero op (a == 0 && b == 0 && c == 0 && d == 0) .shouldFullRefresh
  | 0x0A => requireZero op (a == 0 && b == 0 && c == 0 && d == 0) .partialCount
  | 0x0B => .ok (.extractRegion a b c d)
  | _ => .error (.unassignedOpcode op)

/-- The word with the five fields of R81. -/
def hostWord (op : BitVec 8) (a b c d : BitVec 16) : HostWord := op ++ a ++ b ++ c ++ d

/-- A colour operand in its 16-bit field, the high byte zero (R82). -/
def colorField (color : Byte) : BitVec 16 := (0 : BitVec 8) ++ color

/-- The host word of a host operation (R82, R84); a panel command has none. -/
def encode : Instr → Option HostWord
  | .initialise emulated => some (hostWord 0x00 (if emulated then 1 else 0) 0 0 0)
  | .destroy => some (hostWord 0x01 0 0 0 0)
  | .clear color => some (hostWord 0x02 (colorField color) 0 0 0)
  | .setPixel x y color => some (hostWord 0x03 x y (colorField color) 0)
  | .getPixel x y => some (hostWord 0x04 x y 0 0)
  | .setBorder color => some (hostWord 0x05 (colorField color) 0 0 0)
  | .fullUpdate => some (hostWord 0x06 0 0 0 0)
  | .regionUpdate x y w h => some (hostWord 0x07 x y w h)
  | .exportImage rest => some ((0x08 : BitVec 8) ++ rest)
  | .shouldFullRefresh => some (hostWord 0x09 0 0 0 0)
  | .partialCount => some (hostWord 0x0A 0 0 0 0)
  | .extractRegion x y w h => some (hostWord 0x0B x y w h)
  | .resolution | .panelSet | .powerSet | .pllCtrl | .tempEn | .vcomDi | .tconSet => none
  | .dataMode | .pwrSave | .poffSeq | .dataStart | .powerOn | .refresh | .powerOff => none
  | .partWindow | .partIn | .partOut => none

/-- A row of the table of R84: a word `W` is the row's operation exactly when `W & mask = match`. -/
structure HostRow where
  mnemonic : String
  pattern : HostWord
  mask : HostWord
  deriving DecidableEq, Repr

/-- The table of R84, with the reserved row of opcode 0x08 as spec/opcode_table.json lists it. -/
def hostTable : List HostRow :=
  [ ⟨"initialize", 0x000000000000000000, 0xFFFFFEFFFFFFFFFFFF⟩,
    ⟨"destroy", 0x010000000000000000, 0xFFFFFFFFFFFFFFFFFF⟩,
    ⟨"clear", 0x020000000000000000, 0xFFFF00FFFFFFFFFFFF⟩,
    ⟨"set_pixel", 0x030000000000000000, 0xFF00000000FF00FFFF⟩,
    ⟨"get_pixel", 0x040000000000000000, 0xFF00000000FFFFFFFF⟩,
    ⟨"set_border", 0x050000000000000000, 0xFFFF00FFFFFFFFFFFF⟩,
    ⟨"full_update", 0x060000000000000000, 0xFFFFFFFFFFFFFFFFFF⟩,
    ⟨"region_update", 0x070000000000000000, 0xFF0000000000000000⟩,
    ⟨"export_image", 0x080000000000000000, 0xFF0000000000000000⟩,
    ⟨"should_full_refresh", 0x090000000000000000, 0xFFFFFFFFFFFFFFFFFF⟩,
    ⟨"partial_count", 0x0A0000000000000000, 0xFFFFFFFFFFFFFFFFFF⟩,
    ⟨"extract_region", 0x0B0000000000000000, 0xFF0000000000000000⟩ ]

/-- The table's mnemonic of an instruction (R84, R88). -/
def mnemonic : Instr → String
  | .initialise _ => "initialize"
  | .destroy => "destroy"
  | .clear _ => "clear"
  | .setPixel _ _ _ => "set_pixel"
  | .getPixel _ _ => "get_pixel"
  | .setBorder _ => "set_border"
  | .fullUpdate => "full_update"
  | .regionUpdate _ _ _ _ => "region_update"
  | .shouldFullRefresh => "should_full_refresh"
  | .partialCount => "partial_count"
  | .extractRegion _ _ _ _ => "extract_region"
  | .exportImage _ => "export_image"
  | .resolution => "RESOLUTION"
  | .panelSet => "PANEL_SET"
  | .powerSet => "POWER_SET"
  | .pllCtrl => "PLL_CTRL"
  | .tempEn => "TEMP_EN"
  | .vcomDi => "VCOM_DI"
  | .tconSet => "TCON_SET"
  | .dataMode => "DATA_MODE"
  | .pwrSave => "PWR_SAVE"
  | .poffSeq => "POFF_SEQ"
  | .dataStart => "DATA_START"
  | .powerOn => "POWER_ON"
  | .refresh => "REFRESH"
  | .powerOff => "POWER_OFF"
  | .partWindow => "PART_WINDOW"
  | .partIn => "PART_IN"
  | .partOut => "PART_OUT"

/-! ### The panel commands (R87, R88) -/

/-- The command byte the sequencer sends for a panel command (R88); a host operation has none. -/
def commandByte : Instr → Option Byte
  | .resolution => some Config.cmdResolution
  | .panelSet => some Config.cmdPanelSet
  | .powerSet => some Config.cmdPowerSet
  | .pllCtrl => some Config.cmdPllCtrl
  | .tempEn => some Config.cmdTempEn
  | .vcomDi => some Config.cmdVcomDi
  | .tconSet => some Config.cmdTconSet
  | .dataMode => some Config.cmdDataMode
  | .pwrSave => some Config.cmdPwrSave
  | .poffSeq => some Config.cmdPoffSeq
  | .dataStart => some Config.cmdDataStart
  | .powerOn => some Config.cmdPowerOn
  | .refresh => some Config.cmdRefresh
  | .powerOff => some Config.cmdPowerOff
  | .partWindow => some Config.cmdPartWindow
  | .partIn => some Config.cmdPartIn
  | .partOut => some Config.cmdPartOut
  | .initialise _ | .destroy | .clear _ | .setPixel _ _ _ | .getPixel _ _ | .setBorder _ => none
  | .fullUpdate | .regionUpdate _ _ _ _ | .shouldFullRefresh | .partialCount => none
  | .extractRegion _ _ _ _ | .exportImage _ => none

/-- The seventeen panel commands in the order of R88. -/
def panelCommands : List Instr :=
  [.resolution, .panelSet, .powerSet, .pllCtrl, .tempEn, .vcomDi, .tconSet, .dataMode, .pwrSave, .poffSeq,
   .dataStart, .powerOn, .refresh, .powerOff, .partWindow, .partIn, .partOut]

/-- The panel commands a byte can stand for. The command bytes are OPEN and need not be distinct (D17), so
there can be several. -/
def commandsOf (b : Byte) : List Instr := panelCommands.filter (fun i => commandByte i == some b)

/-- The first panel command, in the order of R88, whose command byte is `b` (log entry 11). The block itself
never decodes a command byte: it sends them. -/
def decodeCommand (b : Byte) : Option Instr := (commandsOf b).head?

/-- What an opcode-table row's word decodes to: 72 bits are one host word (R81), 8 bits one command byte
(R88). -/
def decodeTableWord (nbits w : Nat) : Option Instr :=
  if nbits = 72 then (decode (BitVec.ofNat 72 w)).toOption
  else if nbits = 8 then decodeCommand (BitVec.ofNat 8 w)
  else none

/-! ### The colours (R12) -/

/-- The number of a colour name (R12): BLACK 0, WHITE 1 (the parameter), GREEN 2, BLUE 3, RED 4, YELLOW 5, ORANGE 6,
CLEAN 7. -/
def Colour.code : Colour → Nibble
  | .black => 0
  | .white => Config.white
  | .green => 2
  | .blue => 3
  | .red => 4
  | .yellow => 5
  | .orange => 6
  | .clean => 7

/-- A colour name as the 8-bit operand of an operation (R83, R93). -/
def Colour.operand (c : Colour) : Byte := c.code.setWidth 8

/-- A colour name as it is written (R93). -/
def Colour.text : Colour → String
  | .black => "BLACK"
  | .white => "WHITE"
  | .green => "GREEN"
  | .blue => "BLUE"
  | .red => "RED"
  | .yellow => "YELLOW"
  | .orange => "ORANGE"
  | .clean => "CLEAN"

/-! ### The textual form (R93) -/

/-- Operands in parentheses, separated by commas (R93). -/
def callText (name : String) (operands : List String) : String :=
  name ++ "(" ++ String.intercalate ", " operands ++ ")"

/-- An operand as a decimal number (R93). -/
def operandText {n : Nat} (v : BitVec n) : String := toString v.toNat

/-- The call syntax of a host operation (R93); a panel command and the reserved row have none. -/
def render (i : Instr) : Option String :=
  match i with
  | .initialise emulated => some (callText (mnemonic i) [if emulated then "true" else "false"])
  | .destroy | .fullUpdate | .shouldFullRefresh | .partialCount => some (callText (mnemonic i) [])
  | .clear color | .setBorder color => some (callText (mnemonic i) [operandText color])
  | .setPixel x y color => some (callText (mnemonic i) [operandText x, operandText y, operandText color])
  | .getPixel x y => some (callText (mnemonic i) [operandText x, operandText y])
  | .regionUpdate x y w h | .extractRegion x y w h =>
    some (callText (mnemonic i) [operandText x, operandText y, operandText w, operandText h])
  | .exportImage _ => none
  | .resolution | .panelSet | .powerSet | .pllCtrl | .tempEn | .vcomDi | .tconSet => none
  | .dataMode | .pwrSave | .poffSeq | .dataStart | .powerOn | .refresh | .powerOff => none
  | .partWindow | .partIn | .partOut => none

end Sys2Proof
end

