-- ==== Sys2Proof/Machine/Fetch.lean ====
section
/-! DEFINITION. Where the next instruction comes from: the sequencer step SEQ names while an operation is in progress
(spec/10_state.md R27), else the next operation of the host (spec/30_encoding.md R81, R85). -/

namespace Sys2Proof.Machine

/-- What the block does next. -/
inductive Fetched where
  /-- An instruction, and the state it runs in. -/
  | run (i : Instr) (s : State)
  /-- A sequencer step that sends no command: the reset pulse, a settle delay, the busy-wait. -/
  | internal
  /-- A reserved host word (R85). -/
  | reserved (w : HostWord)
  /-- A hardware reset (R270), and the state it comes in. -/
  | reset (s : State)
  /-- Nothing is pending (R285). -/
  | nothing
  deriving DecidableEq, Repr

/-- The next host input, when no operation is in progress (R6, R62). -/
def fetchHost (s : State) : Fetched :=
  match s.host with
  | [] => .nothing
  | .hardwareReset :: rest => .reset (setHost rest s)
  | .word w :: rest =>
    match decode w with
    | .ok i => .run i (setHost rest s)
    | .error _ => .reserved w

/-- The command of the step in progress (R88), or none for a step that sends none. -/
def fetchSeq (s : State) : Fetched :=
  match commandAt s.seq with
  | some i => .run i s
  | none => .internal

/-- What the block does next: the sequence in progress before anything of the host (R170). -/
def fetch (s : State) : Fetched := if s.seq = .none then fetchHost s else fetchSeq s

/-- A sequencer step that sends the panel command, with a sequence that has it (R164, R167, R169). -/
def stepOfCommand : Instr → SeqStep × Active
  | .resolution => (.i1Resolution, .initialise)
  | .panelSet => (.i2PanelSet, .initialise)
  | .powerSet => (.i3PowerSet, .initialise)
  | .pllCtrl => (.i4PllCtrl, .initialise)
  | .tempEn => (.i5TempEn, .initialise)
  | .vcomDi => (.i6VcomDi, .initialise)
  | .tconSet => (.i7TconSet, .initialise)
  | .dataMode => (.i8DataMode, .initialise)
  | .pwrSave => (.i9PwrSave, .initialise)
  | .poffSeq => (.i10PoffSeq, .initialise)
  | .dataStart => (.f0Data, .fullUpdate)
  | .powerOn => (.t1PowerOn, .fullUpdate)
  | .refresh => (.t3Refresh, .fullUpdate)
  | .powerOff => (.t5PowerOff, .fullUpdate)
  | .partWindow => (.p1Window, .regionUpdate 0 0 1 1)
  | .partIn => (.p2PartIn, .regionUpdate 0 0 1 1)
  | .partOut => (.p4PartOut, .regionUpdate 0 0 1 1)
  | .initialise _ | .destroy | .clear _ | .setPixel _ _ _ | .getPixel _ _ | .setBorder _ => (.none, .idle)
  | .fullUpdate | .regionUpdate _ _ _ _ | .shouldFullRefresh | .partialCount => (.none, .idle)
  | .extractRegion _ _ _ _ | .exportImage _ => (.none, .idle)

/-- `s` with a host word next in line and no sequence in progress (log entry 2). -/
def placeHostWord (s : State) (w : HostWord) : State :=
  setHost (.word w :: s.host) (setSeq .none (setActive .idle s))

/-- `s` with the sequencer at a step that sends the command the byte decodes to (log entries 2, 11). -/
def placeCommand (s : State) (b : Byte) : State :=
  match decodeCommand b with
  | some i => setSeq (stepOfCommand i).1 (setActive (stepOfCommand i).2 s)
  | none => s

end Sys2Proof.Machine
end

