-- ==== Sys2Proof/Machine/Step.lean ====
section
/-! DEFINITION. One step of the machine: an operation of the host from start to end (spec/00_scope.md R12), or one
sequencer step where an operation is in progress (spec/10_state.md R27). -/

namespace Sys2Proof.Machine

/-- One step. -/
def step (s : State) : Host.Outcome State Fault Refusal :=
  match fetch s with
  | .run i s1 => exec i s1
  | .internal => .next (microStep s)
  | .reserved w => .refused (.reservedWord w)
  | .reset s1 => .next (hardwareReset s1)
  | .nothing => .next (idleStep s)

/-- `s` with the instruction of bits `w` where `step` takes its next instruction from: a host word is the
operation the host issues next, a command byte is at the sequencer step that sends it (log entry 2). -/
def State.withFetchWord (s : State) (nbits w : Nat) : State :=
  if nbits = 72 then placeHostWord s (BitVec.ofNat 72 w)
  else if nbits = 8 then placeCommand s (BitVec.ofNat 8 w)
  else s

end Sys2Proof.Machine
end

