-- ==== Sys2Proof/Machine/Wait.lean ====
section
/-! DEFINITION. The polling refinement of the busy-wait (spec/42_panel_sequencer.md R166). It says how a Transport
may come to its answer; `step` takes the answer as the environment's (log entry 17). -/

namespace Sys2Proof.Machine

/-- One look at the ready condition: the clock reading and whether the condition holds. -/
structure Sample where
  now : Nat
  ready : Bool
  deriving DecidableEq, Repr

/-- `now - t0 >= BUSY_TIMEOUT_MS`, converted to ticks (R166). -/
def timedOutAt (t0 now : Nat) : Bool := decide (Config.busyTimeoutMs * Config.tickHz ≤ (now - t0) * 1000)

/-- The loop of R166 over the samples it takes: ready is tested before the timeout. `none` when the samples end
before it has an answer. DESIGN CHOICE, log entry 26: a ready sample answers READY_OK also where it is the first one taken
at or after the timeout, as the loop's text has it; R166's next sentence would have READY_OK no later than the timeout. -/
def pollLoop (t0 : Nat) : List Sample → Option ReadyAnswer
  | [] => none
  | p :: rest => if p.ready then some .readyOk else if timedOutAt t0 p.now then some .timedOut else pollLoop t0 rest

/-- At least POLL_INTERVAL_MS passes between one sample and the next (R166). -/
def spaced : Nat → List Sample → Bool
  | _, [] => true
  | last, p :: rest =>
    decide (last * 1000 + Config.pollIntervalMs * Config.tickHz ≤ p.now * 1000) && spaced p.now rest

end Sys2Proof.Machine
end

