-- ==== Sys2Proof/Safety.lean ====
section
/-! DEFINITION. The terms claims use: when a context is ready for an operation, the invariant of the machine
(spec/10_state.md R32, spec/42_panel_sequencer.md R163), what a frame keeps, when two traces are the same
(R172), and the run of a list of instructions. -/

namespace Sys2Proof.Safety

open Sys2Proof.Machine

/-- A context exists and no operation is in progress: an operation other than initialize is admitted (R224). -/
abbrev Ready (s : State) : Prop := s.seq = .none ∧ s.pstate ≠ .uninitialized

/-- No context exists and no operation is in progress: initialize is admitted (R224). -/
abbrev Vacant (s : State) : Prop := s.seq = .none ∧ s.pstate = .uninitialized

/-- The pixel at column `x`, row `y` of BUF (R21). -/
def pixel (s : State) (x y : Nat) : Nibble := nibRead s.buf (pixelIndex x y)

/-- PSTATE between operations (R163, R224). -/
def restPhase (p : PState) : Bool := p == .uninitialized || p == .configured || p == .poweredOff

/-- PSTATE at each step of full_update (R163, R165, R167). -/
def fullPhase (q : SeqStep) (p : PState) : Bool :=
  match q with
  | .f0Data | .t1PowerOn | .t2Settle => p == .configured || p == .poweredOff
  | .t3Refresh | .t5PowerOff | .t6Settle => p == .idle
  | .t4Wait => p == .busy
  | .none | .i0Reset | .i1Resolution | .i2PanelSet | .i3PowerSet | .i4PllCtrl | .i5TempEn | .i6VcomDi => false
  | .i7TconSet | .i8DataMode | .i9PwrSave | .i10PoffSeq | .p1Window | .p2PartIn | .p3Data | .p4PartOut => false

/-- PSTATE at each step of region_update (R163, R164, R165, R169). -/
def regionPhase (q : SeqStep) (p : PState) : Bool :=
  match q with
  | .i0Reset | .i1Resolution | .i2PanelSet | .i3PowerSet | .i4PllCtrl | .i5TempEn | .i6VcomDi | .i7TconSet
  | .i8DataMode | .i9PwrSave | .i10PoffSeq => p == .configured || p == .poweredOff
  | .p1Window | .p2PartIn | .p3Data | .t1PowerOn | .t2Settle => p == .configured
  | .t3Refresh | .t5PowerOff | .t6Settle => p == .idle
  | .t4Wait => p == .busy
  | .p4PartOut => p == .poweredOff
  | .none | .f0Data => false

/-- SEQ is a step of the sequence in progress and PSTATE is what R163 says there. -/
def phaseOk (active : Active) (q : SeqStep) (p : PState) : Bool :=
  match active with
  | .idle => q == .none && restPhase p
  | .initialise => initSteps.contains q && p == .uninitialized
  | .fullUpdate => fullPhase q p
  | .regionUpdate _ _ _ _ => regionPhase q p

/-- The rectangle of a region update in progress has an extent and lies in the buffer (R169). -/
def rectOk : Active → Bool
  | .regionUpdate x y w h => !zeroExtent w h && !exceedsBounds x y w h
  | .idle | .initialise | .fullUpdate => true

/-- A context exists, or initialize is creating it. -/
def hasContext (s : State) : Bool := s.pstate != .uninitialized || s.active == .initialise

/-- The invariant: BUF in canonical form inside its address range (R21, R32), RBUF no longer than its largest use and
empty between operations (R28), SEQ and PSTATE in step (R27, R163), the staged rectangle inside the panel
(R169), and LFRT a reading of the past (R32). -/
structure Inv (s : State) : Prop where
  buf_wf : memWf s.buf = true
  rbuf_le : s.rbuf.length ≤ Config.bufBytes
  rbuf_rest : s.active = .idle → s.rbuf = []
  phase : phaseOk s.active s.seq s.pstate = true
  rect : rectOk s.active = true
  lfrt_le : hasContext s = true → s.lfrt ≤ s.env.clk

/-- The block's registers other than SEQ are the same (R20). -/
def SameRegisters (s t : State) : Prop :=
  t.border = s.border ∧ t.pcount = s.pcount ∧ t.lfrt = s.lfrt ∧ t.pstate = s.pstate ∧ t.emu = s.emu

/-- Every byte of BUF reads as before. -/
def SameBuffer (s t : State) : Prop := ∀ a, memRead t.buf a = memRead s.buf a

/-- The operation has returned with result `r`: SEQ = NONE, nothing staged, the host's later operations untouched
and the clock not moved back (R11, R12, R27). -/
def Returned (s t : State) (r : Result) : Prop :=
  t.result = some r ∧ t.seq = .none ∧ t.active = .idle ∧ t.rbuf = [] ∧ t.host = s.host ∧ s.env.clk ≤ t.env.clk

/-- Put one DAT before a trace, joining it to a DAT that comes next. -/
def joinDat (bs : List Byte) : List Event → List Event
  | .dat cs :: rest => .dat (bs ++ cs) :: rest
  | es => .dat bs :: es

/-- A trace with adjacent DAT events joined. -/
def coalesce : List Event → List Event
  | [] => []
  | .dat bs :: rest => joinDat bs (coalesce rest)
  | .rst :: rest => .rst :: coalesce rest
  | .cmd b :: rest => .cmd b :: coalesce rest
  | .dly ms :: rest => .dly ms :: coalesce rest
  | .wait t i r :: rest => .wait t i r :: coalesce rest
  | .warn c :: rest => .warn c :: coalesce rest

/-- Two traces are the same trace when they differ only by splitting a DAT into consecutive ones or the reverse
(R172). -/
def SameTrace (es fs : List Event) : Prop := coalesce es = coalesce fs

/-- The one rewriting R172 names: a DAT of a trace is split into two consecutive ones. -/
inductive SplitsDat : List Event → List Event → Prop where
  | split (es fs : List Event) (bs cs : List Byte) :
      SplitsDat (es ++ [.dat (bs ++ cs)] ++ fs) (es ++ [.dat bs, .dat cs] ++ fs)

/-- Nibble `k` of a packed list of bytes: the even one is the high one (R55). -/
def nibbleAt (bs : List Byte) (k : Nat) : Nibble :=
  if k % 2 = 1 then lowNibble (bs.getD (k / 2) 0) else highNibble (bs.getD (k / 2) 0)

/-- One protocol step as it stands in a trace (R161). -/
def protocolStep (b : Byte) (bs : List Byte) : List Event := [.cmd b] ++ (if bs.isEmpty then [] else [.dat bs])

/-- The trace of InitSeq with border colour `border` (R164). -/
def initTrace (border : BitVec 3) : List Event :=
  [.rst] ++ protocolStep Config.cmdResolution Config.payResolution
    ++ protocolStep Config.cmdPanelSet Config.payPanelSet ++ protocolStep Config.cmdPowerSet Config.payPowerSet
    ++ protocolStep Config.cmdPllCtrl Config.payPllCtrl ++ protocolStep Config.cmdTempEn Config.payTempEn
    ++ protocolStep Config.cmdVcomDi (Config.cdiPayload border) ++ protocolStep Config.cmdTconSet Config.payTconSet
    ++ protocolStep Config.cmdDataMode Config.payDataMode ++ protocolStep Config.cmdPwrSave Config.payPwrSave
    ++ protocolStep Config.cmdPoffSeq Config.payPoffSeq

/-- The trace of RefreshTail with the answer `r` (R165, R166). -/
def tailTrace (r : ReadyAnswer) : List Event :=
  [.cmd Config.cmdPowerOn, .dly 200, .cmd Config.cmdRefresh, .wait 40000 10 r]
    ++ (if r = .timedOut then [.warn .busyTimeout] else []) ++ [.cmd Config.cmdPowerOff, .dly 200]

/-- What no sequencer step changes: BUF, the registers but PSTATE, the host's later operations; and the clock
does not move back (R11, R27). -/
def StepKeeps (s t : State) : Prop :=
  SameBuffer s t ∧ t.border = s.border ∧ t.pcount = s.pcount ∧ t.lfrt = s.lfrt ∧ t.emu = s.emu ∧ t.host = s.host
    ∧ s.env.clk ≤ t.env.clk

/-- A sequencer step appended the events `es`, dropped when EMU = 1 (R162). -/
def Appended (s t : State) (es : List Event) : Prop := t.trace = if s.emu then s.trace else s.trace ++ es

/-- The init commands I1 to I9: the command, its step, its command byte and payload, and the next step (R88,
R164). -/
def initCommandTable (border : BitVec 3) : List (Instr × SeqStep × Byte × List Byte × SeqStep) :=
  [ (.resolution, .i1Resolution, Config.cmdResolution, Config.payResolution, .i2PanelSet),
    (.panelSet, .i2PanelSet, Config.cmdPanelSet, Config.payPanelSet, .i3PowerSet),
    (.powerSet, .i3PowerSet, Config.cmdPowerSet, Config.payPowerSet, .i4PllCtrl),
    (.pllCtrl, .i4PllCtrl, Config.cmdPllCtrl, Config.payPllCtrl, .i5TempEn),
    (.tempEn, .i5TempEn, Config.cmdTempEn, Config.payTempEn, .i6VcomDi),
    (.vcomDi, .i6VcomDi, Config.cmdVcomDi, Config.cdiPayload border, .i7TconSet),
    (.tconSet, .i7TconSet, Config.cmdTconSet, Config.payTconSet, .i8DataMode),
    (.dataMode, .i8DataMode, Config.cmdDataMode, Config.payDataMode, .i9PwrSave),
    (.pwrSave, .i9PwrSave, Config.cmdPwrSave, Config.payPwrSave, .i10PoffSeq) ]

/-- Instructions run one after another, each on the state the one before it left. -/
def runAll : List Instr → State → StepOutcome
  | [], s => .next s
  | i :: rest, s =>
    match exec i s with
    | .next t => runAll rest t
    | .fault r => .fault r
    | .refused r => .refused r

/-- A region_update that passes its checks: an extent, and inside the panel (R168, R169). -/
def acceptedRegion : Instr → Bool
  | .regionUpdate x y w h => !zeroExtent w h && !exceedsBounds x y w h
  | _ => false

end Sys2Proof.Safety
end

