-- ==== Sys2Proof/Certificates/Slice0/Obligations.lean ====
section
/-! DEFINITION. The statements for the provers, each formalising rules of spec/. A free value (log entries 5, 7, 8, 19)
is a field of the state or an opaque constant: a statement about it holds for every value. -/

open Sys2Proof Sys2Proof.Machine Sys2Proof.Safety

/-! ### Encoding -/

/-- R81 to R84: decoding the host word of any host operation gives the operation back, with every operand at
every value. -/
def Obligations.DecodeOfEncode : Prop :=
  ∀ (i : Instr) (w : HostWord), encode i = some w → decode w = .ok i

/-- R81 to R84: a host word that decodes is the encoding of what it decodes to: no bit is ignored. -/
def Obligations.EncodeOfDecode : Prop :=
  ∀ (w : HostWord) (i : Instr), decode w = .ok i → encode i = some w

/-- R84: a word is the operation of a row exactly when `W & mask = match`. The row of opcode 0x08 is the reserved
one of spec/opcode_table.json. -/
def Obligations.DecodeFollowsMatchMask : Prop :=
  ∀ (w : HostWord) (r : HostRow), r ∈ hostTable →
    (w &&& r.mask = r.pattern ↔ ∃ i, decode w = .ok i ∧ mnemonic i = r.mnemonic)

/-- R85: a host word that matches no row of R84 (the row of opcode 0x08 is not one of them) is refused, in
whatever context. -/
def Obligations.ReservedWordRefused : Prop :=
  ∀ (s : State) (w : HostWord) (rest : List HostInput), s.seq = .none → s.host = .word w :: rest →
    (∀ r ∈ hostTable, r.mnemonic ≠ "export_image" → w &&& r.mask ≠ r.pattern) →
    step s = .refused (if w.extractLsb' 64 8 = 0x08 then .reservedOperation else .reservedWord w)

/-- R85, R225: the reserved opcode 0x08 is refused, as a host word that comes next and as an instruction, in
every state. -/
def Obligations.ExportImageRefused : Prop :=
  (∀ (s : State) (w : HostWord) (rest : List HostInput), s.seq = .none → s.host = .word w :: rest →
    w.extractLsb' 64 8 = 0x08 → step s = .refused .reservedOperation)
  ∧ ∀ (rest : BitVec 64) (s : State), exec (.exportImage rest) s = .refused .reservedOperation

/-- R88: the seventeen panel commands have the command bytes of the table and no other instruction has one. The panel
commands a byte can stand for are exactly those whose command byte it is; the decoder picks one of them, and picks one for
every byte that is some command's (which one is the model's choice, log entry 11). -/
def Obligations.CommandByteCandidates : Prop :=
  (∀ (i : Instr) (b : Byte), commandByte i = some b ↔ (i, b) ∈
      ([ (.resolution, Config.cmdResolution), (.panelSet, Config.cmdPanelSet), (.powerSet, Config.cmdPowerSet),
        (.pllCtrl, Config.cmdPllCtrl), (.tempEn, Config.cmdTempEn), (.vcomDi, Config.cmdVcomDi),
        (.tconSet, Config.cmdTconSet), (.dataMode, Config.cmdDataMode), (.pwrSave, Config.cmdPwrSave),
        (.poffSeq, Config.cmdPoffSeq), (.dataStart, Config.cmdDataStart), (.powerOn, Config.cmdPowerOn),
        (.refresh, Config.cmdRefresh), (.powerOff, Config.cmdPowerOff), (.partWindow, Config.cmdPartWindow),
        (.partIn, Config.cmdPartIn), (.partOut, Config.cmdPartOut) ] : List (Instr × Byte)))
  ∧ (∀ (i : Instr) (b : Byte), i ∈ commandsOf b ↔ commandByte i = some b)
  ∧ (∀ (b : Byte) (i : Instr), decodeCommand b = some i → commandByte i = some b)
  ∧ ∀ (b : Byte) (i : Instr), commandByte i = some b → ∃ j, decodeCommand b = some j

/-- R82, R84 and the vectors V2, V4, V8, P2, P3 of spec/95_test_vectors.md: a word of each format, N, I, C, P, Q, R, decodes to the
operation it stands for, and one with a must-be-zero bit set to none. -/
def Obligations.SpecWordsDecode : Prop :=
  decodeTableWord 72 0x000001000000000000 = some (.initialise true)
  ∧ decodeTableWord 72 0x020025000000000000 = some (.clear 0x25)
  ∧ decodeTableWord 72 0x03025701BF00060000 = some (.setPixel 599 447 6)
  ∧ decodeTableWord 72 0x040258000000000000 = some (.getPixel 600 0)
  ∧ decodeTableWord 72 0x07024E01B6000A000A = some (.regionUpdate 590 438 10 10)
  ∧ decodeTableWord 72 0x0B0001000100030003 = some (.extractRegion 1 1 3 3)
  ∧ decodeTableWord 72 0x070003000200030001 = some (.regionUpdate 3 2 3 1)
  ∧ decodeTableWord 72 0x0B0001000000030001 = some (.extractRegion 1 0 3 1)
  ∧ decodeTableWord 72 0x050008000000000000 = some (.setBorder 8)
  ∧ decodeTableWord 72 0x060000000000000000 = some .fullUpdate
  ∧ decodeTableWord 72 0x060000000000000001 = none

/-! ### The step -/

/-- R60, R81, R12: when no operation is in progress and the host's next word decodes to `i`, the step is `i` on the state
with that word taken. -/
def Obligations.StepRunsHostOperation : Prop :=
  ∀ (s : State) (w : HostWord) (rest : List HostInput) (i : Instr), s.seq = .none → s.host = .word w :: rest →
    decode w = .ok i → step s = exec i { s with host := rest }

/-- R27, R170: while a sequence is in progress the step is the panel command of the step SEQ names, whatever the host
has issued. -/
def Obligations.StepRunsPanelCommand : Prop :=
  ∀ (s : State) (i : Instr), commandAt s.seq = some i → step s = exec i s

/-- R164 (I0), R165 (T2, T4, T6), R166, R162: the four sequencer steps that send no command. The reset pulse, the two
settle delays with the PSTATE that follows each, and the busy-wait, whose either answer leads on. -/
def Obligations.InternalSequencerSteps : Prop :=
  ∀ s : State,
    (s.seq = .i0Reset → s.active ≠ .idle → s.active ≠ .fullUpdate →
      ∃ t, step s = .next t ∧ Appended s t [.rst] ∧ t.seq = .i1Resolution ∧ t.active = s.active
        ∧ t.pstate = s.pstate ∧ StepKeeps s t)
    ∧ (s.seq = .t2Settle → s.active ≠ .idle → s.active ≠ .initialise →
      ∃ t, step s = .next t ∧ Appended s t [.dly 200] ∧ t.seq = .t3Refresh ∧ t.active = s.active
        ∧ t.pstate = .idle ∧ StepKeeps s t)
    ∧ (s.seq = .t4Wait → s.active ≠ .idle → s.active ≠ .initialise →
      ∃ t, step s = .next t
        ∧ Appended s t ([.wait 40000 10 s.env.ready]
            ++ (if s.env.ready = .timedOut then [.warn .busyTimeout] else []))
        ∧ t.seq = .t5PowerOff ∧ t.active = s.active ∧ t.pstate = .idle ∧ StepKeeps s t)
    ∧ (s.seq = .t6Settle → s.active = .fullUpdate →
      ∃ t, step s = .next t ∧ Appended s t [.dly 200] ∧ t.pstate = .poweredOff ∧ StepKeeps s t
        ∧ Returned s t ⟨.ok, 0, []⟩)
    ∧ (∀ x y w h, s.seq = .t6Settle → s.active = .regionUpdate x y w h →
      ∃ t, step s = .next t ∧ Appended s t [.dly 200] ∧ t.pstate = .poweredOff ∧ StepKeeps s t
        ∧ t.seq = .p4PartOut ∧ t.active = s.active)

/-- R257, R285: with nothing pending the block is idle: no register, no byte of BUF, no result and no event changes; only
time may pass. -/
def Obligations.IdleBlockKeepsState : Prop :=
  ∀ s : State, s.seq = .none → s.host = [] →
    ∃ t, step s = .next t ∧ SameRegisters s t ∧ SameBuffer s t ∧ t.seq = .none ∧ t.host = [] ∧ t.result = s.result
      ∧ t.trace = s.trace ∧ t.rbuf = s.rbuf ∧ s.env.clk ≤ t.env.clk

/-- R270: hardware reset between operations: PSTATE = UNINITIALIZED, SEQ = NONE, no event; and the reset state itself
is so. -/
def Obligations.HardwareResetEndsContext : Prop :=
  (State.reset.pstate = .uninitialized ∧ State.reset.seq = .none ∧ State.reset.trace = [])
  ∧ ∀ (s : State) (rest : List HostInput), s.seq = .none → s.host = .hardwareReset :: rest →
    ∃ t, step s = .next t ∧ t.pstate = .uninitialized ∧ t.seq = .none ∧ t.trace = [] ∧ t.host = rest

/-! ### The pixel buffer -/

/-- R111, R53, R65, R51, R116: set_pixel in range writes the low four bits of the colour into its pixel and changes no other
pixel, no other byte and no register. The pixel of an even column is bits [7:4] of its byte, that of an odd column
bits [3:0], and the other half of the byte is kept. -/
def Obligations.SetPixelWritesOnePixel : Prop :=
  ∀ (s : State) (x y : Coord) (color : Byte), Ready s → memWf s.buf = true → x.toNat < 600 → y.toNat < 448 →
    ∃ t, exec (.setPixel x y color) s = .next t ∧ Returned s t ⟨.ok, 0, []⟩ ∧ t.trace = [] ∧ SameRegisters s t
      ∧ (memRead t.buf ((y.toNat * 600 + x.toNat) / 2)).toNat
          = (if x.toNat % 2 = 0
             then color.toNat % 16 * 16 + (memRead s.buf ((y.toNat * 600 + x.toNat) / 2)).toNat % 16
             else (memRead s.buf ((y.toNat * 600 + x.toNat) / 2)).toNat / 16 * 16 + color.toNat % 16)
      ∧ (pixel t x.toNat y.toNat).toNat = color.toNat % 16
      ∧ (∀ x' y', x' < 600 → y' < 448 → (x' ≠ x.toNat ∨ y' ≠ y.toNat) → pixel t x' y' = pixel s x' y')
      ∧ (∀ a, a ≠ (y.toNat * 600 + x.toNat) / 2 → memRead t.buf a = memRead s.buf a)

/-- R112, R52, R51, R116: get_pixel returns the stored nibble zero-extended in range, which is bits [7:4] of the pixel's byte
in an even column and bits [3:0] in an odd one, and 0 out of range, and writes nothing. -/
def Obligations.GetPixelReturnsPixel : Prop :=
  ∀ (s : State) (x y : Coord), Ready s →
    ∃ t, exec (.getPixel x y) s = .next t
      ∧ Returned s t ⟨.ok, if x.toNat < 600 ∧ y.toNat < 448
          then BitVec.ofNat 32 (pixel s x.toNat y.toNat).toNat else 0, []⟩
      ∧ (x.toNat < 600 → y.toNat < 448 →
          (pixel s x.toNat y.toNat).toNat
            = (if x.toNat % 2 = 0 then (memRead s.buf ((y.toNat * 600 + x.toNat) / 2)).toNat / 16
               else (memRead s.buf ((y.toNat * 600 + x.toNat) / 2)).toNat % 16))
      ∧ t.trace = [] ∧ SameRegisters s t ∧ SameBuffer s t

/-- R113: clear sets both pixels of every byte to the low four bits of the colour, and changes no register and emits
nothing. -/
def Obligations.ClearSetsEveryPixel : Prop :=
  ∀ (s : State) (color : Byte), Ready s →
    ∃ t, exec (.clear color) s = .next t ∧ Returned s t ⟨.ok, 0, []⟩ ∧ t.trace = [] ∧ SameRegisters s t
      ∧ (∀ a, a < 134400 → (memRead t.buf a).toNat = (color.toNat % 16) * 16 + color.toNat % 16)
      ∧ (∀ x y, x < 600 → y < 448 → (pixel t x y).toNat = color.toNat % 16)

/-- R117: `get_pixel(set_pixel(x,y,c)) == c & 0xF` and every other pixel is unaffected; out of range set_pixel is a no-op and
get_pixel returns 0. -/
def Obligations.SetThenGetRoundTrip : Prop :=
  ∀ (s : State) (x y : Coord) (color : Byte), Ready s → memWf s.buf = true →
    ∃ t u, exec (.setPixel x y color) s = .next t ∧ exec (.getPixel x y) t = .next u
      ∧ (x.toNat < 600 ∧ y.toNat < 448 →
          u.result = some ⟨.ok, BitVec.ofNat 32 (color.toNat % 16), []⟩
          ∧ ∀ x' y', x' < 600 → y' < 448 → (x' ≠ x.toNat ∨ y' ≠ y.toNat) → pixel t x' y' = pixel s x' y')
      ∧ (600 ≤ x.toNat ∨ 448 ≤ y.toNat →
          Returned s t ⟨.ok, 0, []⟩ ∧ t.trace = [] ∧ SameRegisters s t ∧ SameBuffer s t
          ∧ u.result = some ⟨.ok, 0, []⟩)

/-- R118: `clear(c)` followed by `get_pixel(x,y)` returns `c & 0xF` for every pixel in range, and 0 out of range. -/
def Obligations.ClearThenGetRoundTrip : Prop :=
  ∀ (s : State) (x y : Coord) (color : Byte), Ready s →
    ∃ t u, exec (.clear color) s = .next t ∧ exec (.getPixel x y) t = .next u
      ∧ u.result = some ⟨.ok, if x.toNat < 600 ∧ y.toNat < 448 then BitVec.ofNat 32 (color.toNat % 16) else 0, []⟩

/-- R114, R55: extract_region returns ceil(w*h/2) bytes whose nibble j*w + i is the pixel (x+i, y+j), the even nibble in bits
[7:4] and the odd one in bits [3:0] of its byte, the spare nibble of an odd region being the drawn value; it changes no
byte of BUF and no register. -/
def Obligations.ExtractRegionRepacksPixels : Prop :=
  ∀ (s : State) (x y w h : Coord), Ready s → 1 ≤ w.toNat → 1 ≤ h.toNat → x.toNat + w.toNat ≤ 600 →
    y.toNat + h.toNat ≤ 448 →
    ∃ t bs, exec (.extractRegion x y w h) s = .next t
      ∧ Returned s t ⟨.ok, BitVec.ofNat 32 ((w.toNat * h.toNat + 1) / 2), bs⟩
      ∧ bs.length = (w.toNat * h.toNat + 1) / 2
      ∧ (∀ i j, i < w.toNat → j < h.toNat →
          nibbleAt bs (j * w.toNat + i) = pixel s (x.toNat + i) (y.toNat + j))
      ∧ (∀ k, (nibbleAt bs k).toNat
          = (if k % 2 = 0 then (bs.getD (k / 2) 0).toNat / 16 else (bs.getD (k / 2) 0).toNat % 16))
      ∧ (w.toNat * h.toNat % 2 = 1 → nibbleAt bs (w.toNat * h.toNat) = s.env.pad)
      ∧ t.trace = [] ∧ SameRegisters s t ∧ SameBuffer s t

/-- R119: nibble j*w + i of the bytes extract_region returns is what get_pixel(x + i, y + j) returns. -/
def Obligations.ExtractRegionAgreesWithGetPixel : Prop :=
  ∀ (s : State) (x y w h : Coord), Ready s → 1 ≤ w.toNat → 1 ≤ h.toNat → x.toNat + w.toNat ≤ 600 →
    y.toNat + h.toNat ≤ 448 →
    ∃ t n bs, exec (.extractRegion x y w h) s = .next t ∧ t.result = some ⟨.ok, n, bs⟩
      ∧ ∀ i j : Nat, i < w.toNat → j < h.toNat →
        ∃ u, exec (.getPixel (x + BitVec.ofNat 16 i) (y + BitVec.ofNat 16 j)) s = .next u
          ∧ u.result = some ⟨.ok, BitVec.ofNat 32 (nibbleAt bs (j * w.toNat + i)).toNat, []⟩

/-- R114, R169, R248: a zero extent is refused, also when the rectangle would fail the bounds test. -/
def Obligations.ZeroExtentRefused : Prop :=
  ∀ (s : State) (x y w h : Coord), Ready s → (w.toNat = 0 ∨ h.toNat = 0) →
    exec (.extractRegion x y w h) s = .refused .zeroExtent ∧ exec (.regionUpdate x y w h) s = .refused .zeroExtent

/-- R51: the address decoder is a bijection from the in-range coordinates onto the pairs (byte address, nibble
select). -/
def Obligations.AddressDecoderBijective : Prop :=
  (∀ x y, x < 600 → y < 448 → byteAddr (pixelIndex x y) < 134400)
  ∧ ∀ (a : Nat) (low : Bool), a < 134400 →
    ∃ x y, (x < 600 ∧ y < 448 ∧ byteAddr (pixelIndex x y) = a ∧ lowSelect (pixelIndex x y) = low)
      ∧ ∀ x' y', x' < 600 → y' < 448 → byteAddr (pixelIndex x' y') = a → lowSelect (pixelIndex x' y') = low →
        x' = x ∧ y' = y

/-- R65: after NibWrite(idx, c), NibRead(idx) = c and NibRead(j) is unchanged for every other j. -/
def Obligations.NibbleWriteDoesNotAlias : Prop :=
  ∀ (m : Memory) (idx : Nat) (c : Nibble), memWf m = true → idx < 268800 →
    nibRead (nibWrite m idx c) idx = c ∧ ∀ j, j < 268800 → j ≠ idx → nibRead (nibWrite m idx c) j = nibRead m j

/-! ### The refresh policy -/

/-- R144: partial_count returns PCOUNT and writes nothing. -/
def Obligations.PartialCountReturnsCount : Prop :=
  ∀ s : State, Ready s →
    ∃ t, exec .partialCount s = .next t ∧ Returned s t ⟨.ok, s.pcount, []⟩ ∧ t.trace = [] ∧ SameRegisters s t
      ∧ SameBuffer s t

/-- R143: should_full_refresh returns 1 exactly when PCOUNT >= 5 or the clock reading it takes is at least 180 seconds
after LFRT; the reading is the clock advanced by what the environment chose, no later than the clock at the
return; and it writes nothing. -/
def Obligations.ShouldFullRefreshAdvises : Prop :=
  ∀ s : State, Ready s →
    ∃ t, exec .shouldFullRefresh s = .next t
      ∧ Returned s t ⟨.ok, if 5 ≤ s.pcount.toNat ∨ 180 * Config.tickHz ≤ s.env.clk + s.env.advance - s.lfrt
          then 1 else 0, []⟩
      ∧ s.env.clk + s.env.advance ≤ t.env.clk ∧ t.trace = [] ∧ SameRegisters s t ∧ SameBuffer s t

/-- R145, R142, R144: after N accepted region updates from PCOUNT = 0, with no full update between, partial_count returns N
and LFRT is untouched; should_full_refresh, whatever the environment did meanwhile, is true from the fifth on, and
false before while less than 180 seconds passed since LFRT. -/
def Obligations.PartialUpdatesAreCounted : Prop :=
  ∀ (s : State) (updates : List Instr), Ready s → s.pcount = 0 → updates.length < 2 ^ 32 →
    (∀ i ∈ updates, acceptedRegion i = true) →
    ∃ t u, runAll updates s = .next t ∧ t.pcount.toNat = updates.length ∧ t.lfrt = s.lfrt
      ∧ exec .partialCount t = .next u ∧ u.result = some ⟨.ok, BitVec.ofNat 32 updates.length, []⟩
      ∧ ∀ env : Env, ∃ v, exec .shouldFullRefresh { t with env := env } = .next v
        ∧ (5 ≤ updates.length → v.result = some ⟨.ok, 1, []⟩)
        ∧ (updates.length < 5 → env.clk + env.advance - t.lfrt < 180 * Config.tickHz →
            v.result = some ⟨.ok, 0, []⟩)

/-- R146: after a full update partial_count is 0, and should_full_refresh, whatever the environment did meanwhile, is false
while less than 180 seconds passed since LFRT. -/
def Obligations.FullUpdateClearsAdvice : Prop :=
  ∀ s : State, Ready s →
    ∃ t u, exec .fullUpdate s = .next t ∧ exec .partialCount t = .next u ∧ u.result = some ⟨.ok, 0, []⟩
      ∧ ∀ env : Env, env.clk + env.advance - t.lfrt < 180 * Config.tickHz →
        ∃ v, exec .shouldFullRefresh { t with env := env } = .next v ∧ v.result = some ⟨.ok, 0, []⟩

/-- R23, R147: over every instruction but the two that make and end a context, PCOUNT becomes 0 exactly by full_update,
grows by one exactly by a region_update that returns OK, and is otherwise unchanged. -/
def Obligations.CountChangesOnlyByUpdates : Prop :=
  ∀ (i : Instr) (s t : State), (∀ e, i ≠ .initialise e) → i ≠ .destroy → exec i s = .next t →
    (i = .fullUpdate → t.pcount = 0)
    ∧ (∀ x y w h, i = .regionUpdate x y w h →
        (t.result = some ⟨.ok, 0, []⟩ ∧ t.pcount.toNat = s.pcount.toNat + 1)
        ∨ (t.result = some ⟨.errBounds, 0, []⟩ ∧ t.pcount = s.pcount))
    ∧ (i ≠ .fullUpdate → (∀ x y w h, i ≠ .regionUpdate x y w h) → t.pcount = s.pcount)

/-! ### The update operations -/

/-- R167, R141: full_update returns OK whatever the busy-wait answers, with PCOUNT = 0, LFRT a clock reading between the
start and the end of the operation, PSTATE = POWERED_OFF, and BUF, BORDER and EMU as before. -/
def Obligations.FullUpdateEffect : Prop :=
  ∀ s : State, Ready s →
    ∃ t, exec .fullUpdate s = .next t ∧ Returned s t ⟨.ok, 0, []⟩ ∧ t.pcount = 0 ∧ s.env.clk ≤ t.lfrt
      ∧ t.lfrt ≤ t.env.clk ∧ t.pstate = .poweredOff ∧ t.border = s.border ∧ t.emu = s.emu ∧ SameBuffer s t

/-- R167, R165, R166, R162: the trace of full_update, event for event: all of BUF from address 0, then the refresh tail
with the Transport's answer; empty on the emulated backend. -/
def Obligations.FullUpdateTrace : Prop :=
  ∀ s : State, Ready s →
    ∃ t, exec .fullUpdate s = .next t
      ∧ t.trace = if s.emu then []
          else [.cmd Config.cmdDataStart, .dat ((List.range 134400).map (memRead s.buf))] ++ tailTrace s.env.ready

/-- R169, R142: a region_update inside the panel, the count below its maximum, returns OK with PCOUNT + 1 and PSTATE =
POWERED_OFF, and leaves LFRT, BUF, BORDER and EMU. -/
def Obligations.RegionUpdateEffect : Prop :=
  ∀ (s : State) (x y w h : Coord), Ready s → 1 ≤ w.toNat → 1 ≤ h.toNat → x.toNat + w.toNat ≤ 600 →
    y.toNat + h.toNat ≤ 448 → s.pcount.toNat < 2 ^ 32 - 1 →
    ∃ t, exec (.regionUpdate x y w h) s = .next t ∧ Returned s t ⟨.ok, 0, []⟩
      ∧ t.pcount.toNat = s.pcount.toNat + 1 ∧ t.pstate = .poweredOff ∧ t.lfrt = s.lfrt ∧ t.border = s.border
      ∧ t.emu = s.emu ∧ SameBuffer s t

/-- R169, R164, R165, R89, R56, R162: the trace of such a region_update, event for event: the initialization sequence with
the current border colour, the window of eight big-endian bytes, partial mode, the repacked rectangle, the
refresh tail, and the exit from partial mode; empty on the emulated backend. -/
def Obligations.RegionUpdateTrace : Prop :=
  ∀ (s : State) (x y w h : Coord), Ready s → 1 ≤ w.toNat → 1 ≤ h.toNat → x.toNat + w.toNat ≤ 600 →
    y.toNat + h.toNat ≤ 448 → s.pcount.toNat < 2 ^ 32 - 1 →
    ∃ t bs, exec (.regionUpdate x y w h) s = .next t
      ∧ bs.length = (w.toNat * h.toNat + 1) / 2
      ∧ (∀ i j, i < w.toNat → j < h.toNat →
          nibbleAt bs (j * w.toNat + i) = pixel s (x.toNat + i) (y.toNat + j))
      ∧ (w.toNat * h.toNat % 2 = 1 → nibbleAt bs (w.toNat * h.toNat) = s.env.pad)
      ∧ t.trace = if s.emu then []
          else initTrace s.border
            ++ [.cmd Config.cmdPartWindow,
                .dat [BitVec.ofNat 8 (x.toNat / 256), BitVec.ofNat 8 (x.toNat % 256),
                      BitVec.ofNat 8 (y.toNat / 256), BitVec.ofNat 8 (y.toNat % 256),
                      BitVec.ofNat 8 ((x.toNat + w.toNat - 1) / 256), BitVec.ofNat 8 ((x.toNat + w.toNat - 1) % 256),
                      BitVec.ofNat 8 ((y.toNat + h.toNat - 1) / 256), BitVec.ofNat 8 ((y.toNat + h.toNat - 1) % 256)],
                .cmd Config.cmdPartIn, .cmd Config.cmdDataStart, .dat bs]
            ++ tailTrace s.env.ready ++ [.cmd Config.cmdPartOut]

/-- R168, R120, R114, R243: a rectangle that leaves the buffer, the sums taken without wrap-around, is answered with
ERR_BOUNDS by region_update as by extract_region: no event, no bytes, no register and no byte of BUF changed, the
count included. -/
def Obligations.RectangleOutsideReported : Prop :=
  ∀ (s : State) (x y w h : Coord), Ready s → 1 ≤ w.toNat → 1 ≤ h.toNat →
    (600 < x.toNat + w.toNat ∨ 448 < y.toNat + h.toNat) →
    (∃ t, exec (.regionUpdate x y w h) s = .next t ∧ Returned s t ⟨.errBounds, 0, []⟩ ∧ t.trace = []
      ∧ SameRegisters s t ∧ SameBuffer s t)
    ∧ ∃ t, exec (.extractRegion x y w h) s = .next t ∧ Returned s t ⟨.errBounds, 0, []⟩ ∧ t.trace = []
      ∧ SameRegisters s t ∧ SameBuffer s t

/-- R142, R148, R248: an increment of PCOUNT at 2^32 - 1 is refused, and only after the bounds test passed. -/
def Obligations.CountOverflowRefused : Prop :=
  ∀ (s : State) (x y w h : Coord), Ready s → 1 ≤ w.toNat → 1 ≤ h.toNat → x.toNat + w.toNat ≤ 600 →
    y.toNat + h.toNat ≤ 448 → s.pcount.toNat = 2 ^ 32 - 1 →
    exec (.regionUpdate x y w h) s = .refused .countOverflow

/-! ### The system operations -/

/-- R271, R220, R35: initialize without a fault creates the context: every byte of BUF 0x11, BORDER = 1, PCOUNT = 0, LFRT a
clock reading taken during the operation, EMU the operand, PSTATE = CONFIGURED. An emulated initialize with
TRANSPORT held ready is one without a fault (log entry 22). -/
def Obligations.InitializeCreatesContext : Prop :=
  ∀ (s : State) (emulated : Bool), Vacant s → initFault emulated s.env.fault = .none →
    ∃ t, exec (.initialise emulated) s = .next t ∧ Returned s t ⟨.ok, 0, []⟩
      ∧ (∀ a, a < 134400 → memRead t.buf a = 0x11) ∧ t.border = 1 ∧ t.pcount = 0 ∧ s.env.clk ≤ t.lfrt
      ∧ t.lfrt ≤ t.env.clk ∧ t.emu = emulated ∧ t.pstate = .configured

/-- R220, R164, R162: the trace of a successful initialize: the reset pulse and the ten steps with the border colour WHITE;
empty when emulated, also where TRANSPORT is held ready (log entry 22). -/
def Obligations.InitializeTrace : Prop :=
  ∀ (s : State) (emulated : Bool), Vacant s → initFault emulated s.env.fault = .none →
    ∃ t, exec (.initialise emulated) s = .next t ∧ t.trace = if emulated then [] else initTrace 1

/-- R220, R249, R240: initialize on RESOURCE, or on TRANSPORT when not emulated, returns FAILED, emits nothing and changes no
register and no byte of BUF. -/
def Obligations.InitializeFails : Prop :=
  ∀ (s : State) (emulated : Bool), Vacant s →
    (s.env.fault = .resource ∨ (s.env.fault = .transport ∧ emulated = false)) →
    ∃ t, exec (.initialise emulated) s = .next t ∧ Returned s t ⟨.failed, 0, []⟩ ∧ t.trace = []
      ∧ SameRegisters s t ∧ SameBuffer s t

/-- R221, R224, R36: destroy ends the context and emits nothing; afterwards every operation but initialize is refused (opcode
0x08 is no operation). -/
def Obligations.DestroyEndsContext : Prop :=
  ∀ s : State, Ready s →
    ∃ t, exec .destroy s = .next t ∧ Returned s t ⟨.ok, 0, []⟩ ∧ t.trace = [] ∧ t.pstate = .uninitialized
      ∧ ∀ i : Instr, commandByte i = none → (∀ e, i ≠ .initialise e) → (∀ r, i ≠ .exportImage r) →
        exec i t = .refused .noContext

/-- R222: set_border with 0 to 7 writes BORDER, sends nothing, and changes no other register and no byte of BUF; a colour
above 7 is refused. -/
def Obligations.SetBorderWritesBorder : Prop :=
  ∀ (s : State) (color : Byte), Ready s →
    (color.toNat ≤ 7 →
      ∃ t, exec (.setBorder color) s = .next t ∧ Returned s t ⟨.ok, 0, []⟩ ∧ t.trace = []
        ∧ t.border.toNat = color.toNat ∧ t.pcount = s.pcount ∧ t.lfrt = s.lfrt ∧ t.pstate = s.pstate ∧ t.emu = s.emu
        ∧ SameBuffer s t)
    ∧ (7 < color.toNat → exec (.setBorder color) s = .refused .borderAboveSeven)

/-- R224: without a context every host operation but initialize is refused (opcode 0x08 is no operation), and with one
initialize is. -/
def Obligations.ContextRuleRefused : Prop :=
  (∀ (s : State) (i : Instr), Vacant s → commandByte i = none → (∀ e, i ≠ .initialise e) →
    (∀ r, i ≠ .exportImage r) → exec i s = .refused .noContext)
  ∧ ∀ (s : State) (emulated : Bool), Ready s → exec (.initialise emulated) s = .refused .contextExists

/-- R62: the meaning of a host operation, run while SEQ is not NONE, is the refusal of an overlapping operation (opcode 0x08
is no operation). That `exec` refuses there is the model's choice, log entry 25: `step` finishes the sequence in progress
first, and a word the host issues meanwhile waits in `State.host`. -/
def Obligations.OverlappingOperationRefused : Prop :=
  ∀ (s : State) (i : Instr), s.seq ≠ .none → commandByte i = none → (∀ r, i ≠ .exportImage r) →
    exec i s = .refused .operationInProgress

/-! ### The panel commands -/

/-- R161, R162, R164, R88: the init commands I1 to I9, at their step of a sequence that has it, send their command byte
and their payload (VCOM_DI the payload of the current BORDER), and SEQ goes on to the next step. -/
def Obligations.InitCommandsSend : Prop :=
  ∀ (s : State) (i : Instr) (q : SeqStep) (b : Byte) (bs : List Byte) (next : SeqStep),
    (i, q, b, bs, next) ∈ initCommandTable s.border → s.seq = q → s.active ≠ .idle → s.active ≠ .fullUpdate →
    ∃ t, exec i s = .next t ∧ Appended s t (protocolStep b bs) ∧ t.seq = next ∧ t.active = s.active
      ∧ t.pstate = s.pstate ∧ t.rbuf = s.rbuf ∧ StepKeeps s t

/-- R163, R164: POFF_SEQ, step I10, sends its command and payload and makes PSTATE CONFIGURED; initialize then returns OK,
region_update goes on to the window. -/
def Obligations.PoffSeqConfigures : Prop :=
  ∀ s : State, s.seq = .i10PoffSeq → s.active ≠ .idle → s.active ≠ .fullUpdate →
    ∃ t, exec .poffSeq s = .next t ∧ Appended s t (protocolStep Config.cmdPoffSeq Config.payPoffSeq)
      ∧ t.pstate = .configured ∧ StepKeeps s t
      ∧ (s.active = .initialise → Returned s t ⟨.ok, 0, []⟩)
      ∧ (s.active ≠ .initialise → t.seq = .p1Window ∧ t.active = s.active)

/-- R165, R163: POWER_ON (T1), REFRESH (T3, then BUSY) and POWER_OFF (T5) of a refresh tail send their command byte and no
data, and SEQ goes on. -/
def Obligations.TailCommandsSend : Prop :=
  ∀ s : State, s.active ≠ .idle → s.active ≠ .initialise →
    (s.seq = .t1PowerOn → ∃ t, exec .powerOn s = .next t ∧ Appended s t [.cmd Config.cmdPowerOn]
        ∧ t.seq = .t2Settle ∧ t.active = s.active ∧ t.pstate = s.pstate ∧ t.rbuf = s.rbuf ∧ StepKeeps s t)
    ∧ (s.seq = .t3Refresh → ∃ t, exec .refresh s = .next t ∧ Appended s t [.cmd Config.cmdRefresh]
        ∧ t.seq = .t4Wait ∧ t.active = s.active ∧ t.pstate = .busy ∧ t.rbuf = s.rbuf ∧ StepKeeps s t)
    ∧ (s.seq = .t5PowerOff → ∃ t, exec .powerOff s = .next t ∧ Appended s t [.cmd Config.cmdPowerOff]
        ∧ t.seq = .t6Settle ∧ t.active = s.active ∧ t.pstate = s.pstate ∧ t.rbuf = s.rbuf ∧ StepKeeps s t)

/-- R56, R167, R169: DATA_START sends all of BUF from address 0 at step F0, and at step P3 the bytes of the rectangle,
which are then in RBUF. -/
def Obligations.DataStartSendsPayload : Prop :=
  (∀ s : State, s.seq = .f0Data → s.active = .fullUpdate →
    ∃ t, exec .dataStart s = .next t
      ∧ Appended s t [.cmd Config.cmdDataStart, .dat ((List.range 134400).map (memRead s.buf))]
      ∧ t.seq = .t1PowerOn ∧ t.active = s.active ∧ t.pstate = s.pstate ∧ t.rbuf = s.rbuf ∧ StepKeeps s t)
  ∧ ∀ (s : State) (x y w h : Coord), s.seq = .p3Data → s.active = .regionUpdate x y w h → 1 ≤ w.toNat →
    1 ≤ h.toNat → x.toNat + w.toNat ≤ 600 → y.toNat + h.toNat ≤ 448 →
    ∃ t, exec .dataStart s = .next t ∧ Appended s t [.cmd Config.cmdDataStart, .dat t.rbuf]
      ∧ t.rbuf.length = (w.toNat * h.toNat + 1) / 2
      ∧ (∀ i j, i < w.toNat → j < h.toNat →
          nibbleAt t.rbuf (j * w.toNat + i) = pixel s (x.toNat + i) (y.toNat + j))
      ∧ t.seq = .t1PowerOn ∧ t.active = s.active ∧ t.pstate = s.pstate ∧ StepKeeps s t

/-- R169, R89: PART_WINDOW (P1) sends the eight window bytes, PART_IN (P2) and PART_OUT (P4) send no data; PART_OUT ends the
operation with OK and leaves PSTATE. -/
def Obligations.PartialModeCommandsSend : Prop :=
  ∀ (s : State) (x y w h : Coord), s.active = .regionUpdate x y w h →
    (s.seq = .p1Window → ∃ t, exec .partWindow s = .next t
        ∧ Appended s t [.cmd Config.cmdPartWindow,
            .dat [BitVec.ofNat 8 (x.toNat / 256), BitVec.ofNat 8 (x.toNat % 256),
                  BitVec.ofNat 8 (y.toNat / 256), BitVec.ofNat 8 (y.toNat % 256),
                  BitVec.ofNat 8 ((x.toNat + w.toNat - 1) / 256), BitVec.ofNat 8 ((x.toNat + w.toNat - 1) % 256),
                  BitVec.ofNat 8 ((y.toNat + h.toNat - 1) / 256), BitVec.ofNat 8 ((y.toNat + h.toNat - 1) % 256)]]
        ∧ t.seq = .p2PartIn ∧ t.active = s.active ∧ t.pstate = s.pstate ∧ t.rbuf = s.rbuf ∧ StepKeeps s t)
    ∧ (s.seq = .p2PartIn → ∃ t, exec .partIn s = .next t ∧ Appended s t [.cmd Config.cmdPartIn]
        ∧ t.seq = .p3Data ∧ t.active = s.active ∧ t.pstate = s.pstate ∧ t.rbuf = s.rbuf ∧ StepKeeps s t)
    ∧ (s.seq = .p4PartOut → ∃ t, exec .partOut s = .next t ∧ Appended s t [.cmd Config.cmdPartOut]
        ∧ Returned s t ⟨.ok, 0, []⟩ ∧ t.pstate = s.pstate ∧ StepKeeps s t)

/-- R27, R171: a panel command where the sequencer is not at a step that sends it is refused. -/
def Obligations.OutOfSequenceRefused : Prop :=
  ∀ (s : State) (i : Instr), (commandByte i).isSome = true → commandAt s.seq ≠ some i →
    exec i s = .refused (.outOfSequence (mnemonic i))

/-- R54, and log entry 23 (the model's own choice): DATA_START at step P3 with a staged rectangle that leaves BUF stops with
the fault `outsideBuffer`. -/
def Obligations.StagedRectangleOutsideFaults : Prop :=
  ∀ (s : State) (x y w h : Coord), s.seq = .p3Data → s.active = .regionUpdate x y w h →
    (600 < x.toNat + w.toNat ∨ 448 < y.toNat + h.toNat) → exec .dataStart s = .fault .outsideBuffer

/-! ### The whole machine -/

/-- R32, R34: the invariant holds after hardware reset. -/
def Obligations.ResetMeetsInvariant : Prop := Inv State.reset

/-- R32, R163, R27, R21, R28: every step from a state that meets the invariant gives one that meets it. -/
def Obligations.StepKeepsInvariant : Prop :=
  ∀ s t : State, Inv s → step s = .next t → Inv t

/-- R54, R168: no step from a state that meets the invariant faults. The one fault of the model is the guard of DATA_START
(log entry 23, the model's choice) against a rectangle that leaves BUF: from such a state it never strikes. -/
def Obligations.InvariantNeverFaults : Prop :=
  ∀ (s : State) (r : Fault), Inv s → step s ≠ .fault r

/-- R163, R285: a step that takes an operation of the host ends between operations: SEQ = NONE and PSTATE one of
UNINITIALIZED, CONFIGURED, POWERED_OFF. -/
def Obligations.OperationsEndAtRest : Prop :=
  ∀ s t : State, Inv s → s.seq = .none → step s = .next t →
    t.seq = .none ∧ (t.pstate = .uninitialized ∨ t.pstate = .configured ∨ t.pstate = .poweredOff)

/-- R167, R170 and D9; log entry 1 (the two views are the model's choice): from the point where full_update has recorded, seven single sequencer steps of the machine give exactly
what the operation gives as a whole. -/
def Obligations.FullUpdateStepByStep : Prop :=
  ∀ s : State, Ready s → Host.Core.run core 7 (startFullUpdate s) = exec .fullUpdate s

/-- R169, R170 and D9; log entry 1 (the model's choice): the same for the twenty-one steps of a region_update that passes its checks. -/
def Obligations.RegionUpdateStepByStep : Prop :=
  ∀ (s : State) (x y w h : Coord), Ready s → 1 ≤ w.toNat → 1 ≤ h.toNat → x.toNat + w.toNat ≤ 600 →
    y.toNat + h.toNat ≤ 448 → s.pcount.toNat < 2 ^ 32 - 1 →
    Host.Core.run core 21 (startRegionUpdate x y w h s) = exec (.regionUpdate x y w h) s

/-- R220, R164, R170 and D9; log entry 1 (the model's choice): the same for the eleven steps of the initialization sequence
of a successful initialize, an emulated one with TRANSPORT held ready included (log entry 22). -/
def Obligations.InitializeStepByStep : Prop :=
  ∀ (s : State) (emulated : Bool), Vacant s → initFault emulated s.env.fault = .none →
    Host.Core.run core 11 (startInitialise emulated (redrawFault (beginOp s))) = exec (.initialise emulated) s

/-- R21, R22, R24, R26: BUF is written only by initialize, set_pixel and clear; BORDER only by initialize and set_border; LFRT
only by initialize and full_update; EMU only by initialize; destroy leaves all of them unspecified (R221). -/
def Obligations.RegistersWrittenOnlyByTheirOperations : Prop :=
  ∀ (i : Instr) (s t : State), exec i s = .next t → (∀ e, i ≠ .initialise e) → i ≠ .destroy →
    ((∀ x y c, i ≠ .setPixel x y c) → (∀ c, i ≠ .clear c) → t.buf = s.buf)
    ∧ ((∀ c, i ≠ .setBorder c) → t.border = s.border)
    ∧ (i ≠ .fullUpdate → t.lfrt = s.lfrt)
    ∧ t.emu = s.emu

/-- R11: the clock never decreases, over every step. -/
def Obligations.ClockNeverDecreases : Prop :=
  ∀ s t : State, step s = .next t → s.env.clk ≤ t.env.clk

/-- R162, R173: on the emulated backend the trace of every host operation is empty; on either backend only initialize,
full_update and region_update emit anything. -/
def Obligations.WhoEmits : Prop :=
  ∀ (i : Instr) (s t : State), commandByte i = none → exec i s = .next t →
    (t.emu = true → i ≠ .destroy → t.trace = [])
    ∧ ((∀ e, i ≠ .initialise e) → i ≠ .fullUpdate → (∀ x y w h, i ≠ .regionUpdate x y w h) → t.trace = [])

/-- R162: everything a host operation does but its trace is the same for both values of EMU: the result, BUF, BORDER, PCOUNT,
LFRT and PSTATE. -/
def Obligations.BackendMakesNoOtherDifference : Prop :=
  ∀ (i : Instr) (s t : State) (e : Bool), commandByte i = none → exec i s = .next t →
    ∃ u, exec i { s with emu := e } = .next u ∧ u.result = t.result ∧ u.buf = t.buf ∧ u.border = t.border
      ∧ u.pcount = t.pcount ∧ u.lfrt = t.lfrt ∧ u.pstate = t.pstate

/-- R166, the polling refinement (the spec's own reading; no step runs it, log entry 17): sampled at once and then at least
every POLL_INTERVAL_MS apart, the loop answers within 4001 samples. READY_OK comes with the first sample that is ready,
every sample before it taken before BUSY_TIMEOUT_MS passed, and that sample itself may be taken later (the model's
choice, log entry 26). TIMED_OUT comes after at least BUSY_TIMEOUT_MS with no sample ready. -/
def Obligations.PollLoopAnswers : Prop :=
  (∀ (t0 : Nat) (p : Sample) (ps : List Sample), t0 ≤ p.now → spaced p.now ps = true → 4000 ≤ ps.length →
    pollLoop t0 (p :: ps) ≠ none)
  ∧ (∀ (t0 : Nat) (ps : List Sample), pollLoop t0 ps = some .readyOk →
    ∃ before p after, ps = before ++ p :: after ∧ p.ready = true
      ∧ ∀ q ∈ before, q.ready = false ∧ (q.now - t0) * 1000 < 40000 * Config.tickHz)
  ∧ ∀ (t0 : Nat) (ps : List Sample), pollLoop t0 ps = some .timedOut →
    ∃ before p after, ps = before ++ p :: after ∧ (∀ q ∈ before ++ [p], q.ready = false)
      ∧ 40000 * Config.tickHz ≤ (p.now - t0) * 1000

/-- R172, R171: two traces are the same trace exactly when splitting a DAT into two consecutive ones, over and over and in
either direction, leads from one to the other. So full_update's trace on the real backend is the same trace as one
that hands BUF over in any pieces. -/
def Obligations.ChunkingNotObservable : Prop :=
  (∀ es fs : List Event, SameTrace es fs ↔ Relation.EqvGen SplitsDat es fs)
  ∧ ∀ (s : State) (pieces : List (List Byte)), Ready s → s.emu = false → pieces ≠ [] →
    pieces.flatten = (List.range 134400).map (memRead s.buf) →
    ∃ t, exec .fullUpdate s = .next t
      ∧ SameTrace t.trace ([.cmd Config.cmdDataStart] ++ pieces.map .dat ++ tailTrace s.env.ready)
end

