-- ==== Sys2Proof/Laws/Encoding.lean ====
section
/-! SUPPORT. The fields of a host word (spec/30_encoding.md R81): each field of `hostWord` is what was put
there, and a word is its five fields. -/

namespace Sys2Proof

theorem toNat_append_eq {m n : Nat} (x : BitVec m) (y : BitVec n) :
    (x ++ y).toNat = x.toNat * 2 ^ n + y.toNat := by
  rw [BitVec.toNat_append, ← Nat.shiftLeft_add_eq_or_of_lt y.isLt, Nat.shiftLeft_eq]

/-- A host word as a number (R81). -/
theorem hostWord_toNat (op : BitVec 8) (a b c d : BitVec 16) :
    (hostWord op a b c d).toNat
      = (((op.toNat * 2 ^ 16 + a.toNat) * 2 ^ 16 + b.toNat) * 2 ^ 16 + c.toNat) * 2 ^ 16 + d.toNat := by
  simp only [hostWord, toNat_append_eq]

@[simp] theorem fieldOp_hostWord (op : BitVec 8) (a b c d : BitVec 16) : fieldOp (hostWord op a b c d) = op := by
  apply BitVec.eq_of_toNat_eq
  rw [fieldOp, BitVec.extractLsb'_toNat, hostWord_toNat, Nat.shiftRight_eq_div_pow]
  omega

@[simp] theorem fieldA_hostWord (op : BitVec 8) (a b c d : BitVec 16) : fieldA (hostWord op a b c d) = a := by
  apply BitVec.eq_of_toNat_eq
  rw [fieldA, BitVec.extractLsb'_toNat, hostWord_toNat, Nat.shiftRight_eq_div_pow]
  omega

@[simp] theorem fieldB_hostWord (op : BitVec 8) (a b c d : BitVec 16) : fieldB (hostWord op a b c d) = b := by
  apply BitVec.eq_of_toNat_eq
  rw [fieldB, BitVec.extractLsb'_toNat, hostWord_toNat, Nat.shiftRight_eq_div_pow]
  omega

@[simp] theorem fieldC_hostWord (op : BitVec 8) (a b c d : BitVec 16) : fieldC (hostWord op a b c d) = c := by
  apply BitVec.eq_of_toNat_eq
  rw [fieldC, BitVec.extractLsb'_toNat, hostWord_toNat, Nat.shiftRight_eq_div_pow]
  omega

@[simp] theorem fieldD_hostWord (op : BitVec 8) (a b c d : BitVec 16) : fieldD (hostWord op a b c d) = d := by
  apply BitVec.eq_of_toNat_eq
  rw [fieldD, BitVec.extractLsb'_toNat, hostWord_toNat, Nat.shiftRight_eq_div_pow]
  omega

/-- A host word is its five fields (R81). -/
theorem hostWord_fields (w : HostWord) : hostWord (fieldOp w) (fieldA w) (fieldB w) (fieldC w) (fieldD w) = w := by
  apply BitVec.eq_of_toNat_eq
  rw [hostWord_toNat, fieldOp, fieldA, fieldB, fieldC, fieldD]
  simp only [BitVec.extractLsb'_toNat, Nat.shiftRight_eq_div_pow]
  omega

@[simp] theorem lowByte_colorField (c : Byte) : lowByte (colorField c) = c := by
  apply BitVec.eq_of_toNat_eq
  rw [lowByte, BitVec.extractLsb'_toNat, colorField, toNat_append_eq, Nat.shiftRight_eq_div_pow]
  simp
  exact c.isLt

@[simp] theorem highByte_colorField (c : Byte) : highByte (colorField c) = 0 := by
  apply BitVec.eq_of_toNat_eq
  rw [highByte, BitVec.extractLsb'_toNat, colorField, toNat_append_eq, Nat.shiftRight_eq_div_pow]
  have := c.isLt
  simp
  omega

/-- A field with a zero high byte is the colour field of its low byte (R82). -/
theorem colorField_lowByte {f : BitVec 16} (h : highByte f = 0) : colorField (lowByte f) = f := by
  apply BitVec.eq_of_toNat_eq
  have h' := congrArg BitVec.toNat h
  rw [highByte, BitVec.extractLsb'_toNat, Nat.shiftRight_eq_div_pow] at h'
  rw [lowByte, colorField, toNat_append_eq, BitVec.extractLsb'_toNat, Nat.shiftRight_eq_div_pow]
  have := f.isLt
  simp at h' ⊢
  omega

/-- The reserved row's word: its opcode and the rest (R85). -/
@[simp] theorem fieldOp_reserved (rest : BitVec 64) : fieldOp ((0x08 : BitVec 8) ++ rest) = 0x08 := by
  apply BitVec.eq_of_toNat_eq
  rw [fieldOp, BitVec.extractLsb'_toNat, toNat_append_eq, Nat.shiftRight_eq_div_pow]
  have := rest.isLt
  simp
  omega

/-- If a word decodes under a must-be-zero condition, the condition holds and the instruction is the one given. -/
theorem requireZero_ok {op : BitVec 8} {zero : Bool} {i j : Instr} (h : requireZero op zero i = .ok j) :
    zero = true ∧ i = j := by
  unfold requireZero at h
  split at h
  · next hz => exact ⟨hz, by cases h; rfl⟩
  · cases h

end Sys2Proof
end

