-- ==== Sys2Proof/Laws/Memory.lean ====
section
/-! SUPPORT. The laws of BUF: reading after writing, and that every memory operation keeps the canonical
form (spec/20_memory.md R52, R53, R65). -/

namespace Sys2Proof.Machine

@[simp] theorem bufFill_eq : bufFill = 0x11 := by decide

/-! ### The canonical form -/

theorem memWfFrom_cons (lo k : Nat) (v : Byte) (rest : Memory) :
    memWfFrom lo ((k, v) :: rest) = true ↔
      lo ≤ k ∧ k < Config.bufBytes ∧ v ≠ bufFill ∧ memWfFrom (k + 1) rest = true := by
  simp only [memWfFrom, Bool.and_eq_true, decide_eq_true_eq, Bool.not_eq_true', beq_eq_false_iff_ne, ne_eq, and_assoc]

theorem memWfFrom_mono {lo lo' : Nat} {m : Memory} (h : lo' ≤ lo) (hm : memWfFrom lo m = true) :
    memWfFrom lo' m = true := by
  cases m with
  | nil => rfl
  | cons e rest =>
    obtain ⟨k, v⟩ := e
    rw [memWfFrom_cons] at hm ⊢
    exact ⟨h.trans hm.1, hm.2⟩

theorem memCons_wf {lo a : Nat} {v : Byte} {rest : Memory} (hlo : lo ≤ a) (ha : a < Config.bufBytes)
    (hr : memWfFrom (a + 1) rest = true) : memWfFrom lo (memCons a v rest) = true := by
  unfold memCons
  split
  · exact memWfFrom_mono (by omega) hr
  · next hv => exact (memWfFrom_cons ..).2 ⟨hlo, ha, hv, hr⟩

theorem memWrite_wfFrom {m : Memory} {lo a : Nat} (v : Byte) (hlo : lo ≤ a) (ha : a < Config.bufBytes)
    (hm : memWfFrom lo m = true) : memWfFrom lo (memWrite m a v) = true := by
  induction m generalizing lo with
  | nil => exact memCons_wf hlo ha rfl
  | cons e rest ih =>
    obtain ⟨k, w⟩ := e
    have hm' := (memWfFrom_cons ..).1 hm
    simp only [memWrite]
    split
    · next hk => exact memCons_wf hlo ha ((memWfFrom_cons ..).2 ⟨hk, hm'.2⟩)
    · split
      · next hk => subst hk; exact memCons_wf hlo ha hm'.2.2.2
      · exact (memWfFrom_cons ..).2 ⟨hm'.1, hm'.2.1, hm'.2.2.1, ih (by omega) hm'.2.2.2⟩

/-- A write inside BUF keeps the canonical form. -/
theorem memWrite_wf {m : Memory} {a : Nat} (v : Byte) (ha : a < Config.bufBytes) (hm : memWf m = true) :
    memWf (memWrite m a v) = true :=
  memWrite_wfFrom v (Nat.zero_le a) ha hm

theorem memOfFrom_wf (f : Nat → Byte) (a n : Nat) (h : a + n ≤ Config.bufBytes) :
    memWfFrom a (memOfFrom f a n) = true := by
  induction n generalizing a with
  | zero => rfl
  | succ n ih => exact memCons_wf le_rfl (by omega) (ih (a + 1) (by omega))

/-- A memory given by its bytes is in canonical form. -/
theorem memOf_wf (f : Nat → Byte) : memWf (memOf f) = true :=
  memOfFrom_wf f 0 Config.bufBytes (by omega)

/-- A fill of BUF is in canonical form. -/
theorem memFill_wf (p : Byte) : memWf (memFill p) = true := by
  unfold memFill
  split
  · rfl
  · exact memOf_wf _

/-! ### Reading -/

/-- An address below every entry reads as `bufFill`. -/
theorem memRead_below {m : Memory} {lo a : Nat} (hm : memWfFrom lo m = true) (ha : a < lo) :
    memRead m a = bufFill := by
  induction m generalizing lo with
  | nil => rfl
  | cons e rest ih =>
    obtain ⟨k, v⟩ := e
    have hm' := (memWfFrom_cons ..).1 hm
    rw [memRead, if_neg (by omega), ih hm'.2.2.2 (by omega)]

theorem memRead_memCons {a b : Nat} {v : Byte} {rest : Memory} (hr : memWfFrom (a + 1) rest = true) :
    memRead (memCons a v rest) b = if b = a then v else memRead rest b := by
  unfold memCons
  split
  · next hv =>
    split
    · next hb => rw [hv, hb]; exact memRead_below hr (by omega)
    · rfl
  · rw [memRead]; simp only [eq_comm]

theorem memRead_memWrite_from {m : Memory} {lo a b : Nat} {v : Byte} (hm : memWfFrom lo m = true) :
    memRead (memWrite m a v) b = if b = a then v else memRead m b := by
  induction m generalizing lo with
  | nil => exact memRead_memCons rfl
  | cons e rest ih =>
    obtain ⟨k, w⟩ := e
    have hm' := (memWfFrom_cons ..).1 hm
    simp only [memWrite]
    split
    · next hk => exact memRead_memCons ((memWfFrom_cons ..).2 ⟨hk, hm'.2⟩)
    · split
      · next hk =>
        subst hk
        rw [memRead_memCons hm'.2.2.2]
        split
        · rfl
        · rw [memRead, if_neg (by omega)]
      · rw [memRead, memRead, ih hm'.2.2.2]
        split
        · rw [if_neg (by omega)]
        · rfl

/-- A read after a write: the written byte at its address, every other byte as before (R53). -/
theorem memRead_memWrite {m : Memory} (hm : memWf m = true) (a b : Nat) (v : Byte) :
    memRead (memWrite m a v) b = if b = a then v else memRead m b :=
  memRead_memWrite_from hm

theorem memRead_memOfFrom (f : Nat → Byte) (a n b : Nat) (h : a + n ≤ Config.bufBytes) :
    memRead (memOfFrom f a n) b = if a ≤ b ∧ b < a + n then f b else bufFill := by
  induction n generalizing a with
  | zero => rw [if_neg (by omega)]; rfl
  | succ n ih =>
    rw [memOfFrom, memRead_memCons (memOfFrom_wf f (a + 1) n (by omega)), ih (a + 1) (by omega)]
    split
    · next hb => rw [hb, if_pos (by omega)]
    · split
      · rw [if_pos (by omega)]
      · rw [if_neg (by omega)]

/-- Every byte of BUF reads as given. -/
theorem memRead_memOf (f : Nat → Byte) {a : Nat} (ha : a < Config.bufBytes) : memRead (memOf f) a = f a := by
  rw [memOf, memRead_memOfFrom f 0 _ a (by omega), if_pos (by omega)]

/-- After a fill every byte of BUF is the fill byte (R113). -/
theorem memRead_memFill (p : Byte) {a : Nat} (ha : a < Config.bufBytes) : memRead (memFill p) a = p := by
  unfold memFill
  split
  · next h => rw [h]; rfl
  · exact memRead_memOf _ ha

/-! ### Nibbles -/

@[simp] theorem highNibble_byteOf (a b : Nibble) : highNibble (byteOf a b) = a := by
  unfold highNibble byteOf
  exact BitVec.extractLsb'_append_eq_left

@[simp] theorem lowNibble_byteOf (a b : Nibble) : lowNibble (byteOf a b) = b := by
  unfold lowNibble byteOf
  exact BitVec.extractLsb'_append_eq_right

/-- The high nibble is bits [7:4] (R9). -/
theorem highNibble_toNat (b : Byte) : (highNibble b).toNat = b.toNat / 16 := by
  have := b.isLt
  simp only [highNibble, BitVec.extractLsb'_toNat, Nat.shiftRight_eq_div_pow]
  omega

/-- The low nibble is bits [3:0] (R9). -/
theorem lowNibble_toNat (b : Byte) : (lowNibble b).toNat = b.toNat % 16 := by
  simp [lowNibble]

/-- A byte is its high nibble times 16 plus its low one (R9). -/
theorem byteOf_toNat (hi lo : Nibble) : (byteOf hi lo).toNat = hi.toNat * 16 + lo.toNat := by
  have := lo.isLt
  simp only [byteOf, BitVec.toNat_append, Nat.shiftLeft_eq]
  rw [← Nat.shiftLeft_eq, ← Nat.shiftLeft_add_eq_or_of_lt this, Nat.shiftLeft_eq]

/-- NibRead as arithmetic on the byte: the even index is bits [7:4] (R52). -/
theorem nibRead_toNat (m : Memory) (i : Nat) :
    (nibRead m i).toNat
      = if i % 2 = 0 then (memRead m (i / 2)).toNat / 16 else (memRead m (i / 2)).toNat % 16 := by
  rcases Nat.mod_two_eq_zero_or_one i with h | h <;>
    simp [nibRead, lowSelect, byteAddr, h, highNibble_toNat, lowNibble_toNat]

/-- NibWrite as arithmetic on the byte it addresses (R53). -/
theorem memRead_nibWrite_self {m : Memory} (hm : memWf m = true) (i : Nat) (c : Nibble) :
    (memRead (nibWrite m i c) (i / 2)).toNat
      = if i % 2 = 0 then c.toNat * 16 + (memRead m (i / 2)).toNat % 16
        else (memRead m (i / 2)).toNat / 16 * 16 + c.toNat := by
  simp only [nibWrite, byteAddr]
  rw [memRead_memWrite hm, if_pos rfl]
  rcases Nat.mod_two_eq_zero_or_one i with h | h <;>
    simp [lowSelect, h, byteOf_toNat, highNibble_toNat, lowNibble_toNat]

/-- NibRead after NibWrite: the written nibble at its index, every other one as before (R53, R65). -/
theorem nibRead_nibWrite {m : Memory} (hm : memWf m = true) (i j : Nat) (c : Nibble) :
    nibRead (nibWrite m i c) j = if j = i then c else nibRead m j := by
  simp only [nibRead, nibWrite, memRead_memWrite hm]
  by_cases hij : j = i
  · subst hij
    cases lowSelect j <;> simp
  · by_cases hb : byteAddr j = byteAddr i
    · have hs : lowSelect j ≠ lowSelect i := by
        simp only [byteAddr, lowSelect] at *
        intro h
        have : (j % 2 = 1) ↔ (i % 2 = 1) := by simpa using h
        omega
      rw [if_pos hb, if_neg hij]
      cases hi : lowSelect i <;> cases hj : lowSelect j <;> simp_all
    · rw [if_neg hb, if_neg hij]

/-- NibWrite changes no byte but the one it addresses (R53). -/
theorem memRead_nibWrite_other {m : Memory} (hm : memWf m = true) (i a : Nat) (c : Nibble)
    (ha : a ≠ byteAddr i) : memRead (nibWrite m i c) a = memRead m a := by
  rw [nibWrite, memRead_memWrite hm, if_neg ha]

/-- NibWrite inside BUF keeps the canonical form. -/
theorem nibWrite_wf {m : Memory} {i : Nat} (c : Nibble) (hi : i < Config.npix) (hm : memWf m = true) :
    memWf (nibWrite m i c) = true :=
  memWrite_wf _ (by simp only [byteAddr, Config.npix_eq, Config.bufBytes_eq] at *; omega) hm

/-- After a fill with a repeated nibble every pixel is that nibble (R113, R118). -/
theorem nibRead_memFill (c : Nibble) {i : Nat} (hi : i < Config.npix) : nibRead (memFill (byteOf c c)) i = c := by
  have hb : byteAddr i < Config.bufBytes := by
    simp only [byteAddr, Config.npix_eq, Config.bufBytes_eq] at *; omega
  simp only [nibRead, memRead_memFill _ hb]
  cases lowSelect i <;> simp

end Sys2Proof.Machine
end

