-- ==== Sys2Proof/Laws/Operands.lean ====
section
/-! SUPPORT. Facts about the operand forms: the address decoder, the bounds tests, the packing of a region
(spec/20_memory.md R51, R55, spec/40_pixelbuffer.md R114, R115). -/

namespace Sys2Proof.Machine

open Sys2Proof.Safety

theorem inRange_iff (x y : Nat) : inRange x y = true ↔ x < 600 ∧ y < 448 := by
  simp only [inRange, Bool.and_eq_true, decide_eq_true_eq]
  exact Iff.rfl

theorem zeroExtent_iff (w h : Coord) : zeroExtent w h = true ↔ w.toNat = 0 ∨ h.toNat = 0 := by
  simp only [zeroExtent, Bool.or_eq_true, decide_eq_true_eq]

theorem zeroExtent_false {w h : Coord} (hw : 1 ≤ w.toNat) (hh : 1 ≤ h.toNat) : zeroExtent w h = false := by
  rw [← Bool.not_eq_true, zeroExtent_iff]; omega

theorem exceedsBounds_iff (x y w h : Coord) :
    exceedsBounds x y w h = true ↔ 600 < x.toNat + w.toNat ∨ 448 < y.toNat + h.toNat := by
  simp only [exceedsBounds, Bool.or_eq_true, decide_eq_true_eq]
  exact Iff.rfl

theorem exceedsBounds_false {x y w h : Coord} (hx : x.toNat + w.toNat ≤ 600) (hy : y.toNat + h.toNat ≤ 448) :
    exceedsBounds x y w h = false := by
  rw [← Bool.not_eq_true, exceedsBounds_iff]; omega

/-- A pixel in range has an index below NPIX (R51, R115). -/
theorem pixelIndex_lt {x y : Nat} (hx : x < 600) (hy : y < 448) : pixelIndex x y < Config.npix := by
  simp only [pixelIndex, Config.width_eq, Config.npix_eq]; omega

/-- Two pixels in range with one index are one pixel (R51). -/
theorem pixelIndex_inj {x y x' y' : Nat} (hx : x < 600) (hx' : x' < 600)
    (h : pixelIndex x' y' = pixelIndex x y) : x' = x ∧ y' = y := by
  simp only [pixelIndex, Config.width_eq] at h; omega

@[simp] theorem borderWhite_eq : borderWhite = 1 := rfl

theorem lo4_toNat (c : Byte) : (lo4 c).toNat = c.toNat % 16 := by
  simp [lo4]

/-- The payload of the window, byte by byte (R89). -/
theorem windowBytes_eq (x y w h : Coord) :
    windowBytes x y w h =
      [BitVec.ofNat 8 (x.toNat / 256), BitVec.ofNat 8 x.toNat, BitVec.ofNat 8 (y.toNat / 256),
       BitVec.ofNat 8 y.toNat, BitVec.ofNat 8 ((x.toNat + w.toNat - 1) / 256),
       BitVec.ofNat 8 (x.toNat + w.toNat - 1), BitVec.ofNat 8 ((y.toNat + h.toNat - 1) / 256),
       BitVec.ofNat 8 (y.toNat + h.toNat - 1)] := rfl

/-! ### Packing -/

theorem packNibbles_length (pad : Nibble) (ns : List Nibble) :
    (packNibbles pad ns).length = (ns.length + 1) / 2 := by
  induction ns using packNibbles.induct with
  | case1 => rfl
  | case2 a => simp [packNibbles]
  | case3 a b rest ih => simp only [packNibbles, List.length_cons, ih]; omega

theorem nibbleAt_cons (b : Byte) (bs : List Byte) (k : Nat) : nibbleAt (b :: bs) (k + 2) = nibbleAt bs k := by
  simp [nibbleAt, show (k + 2) / 2 = k / 2 + 1 by omega]

/-- Nibble `k` of a packed list is its `k`-th nibble (R55). -/
theorem nibbleAt_packNibbles (pad : Nibble) (ns : List Nibble) {k : Nat} (hk : k < ns.length) :
    nibbleAt (packNibbles pad ns) k = ns[k] := by
  induction ns using packNibbles.induct generalizing k with
  | case1 => simp at hk
  | case2 a =>
    have : k = 0 := by simpa using hk
    subst this; simp [packNibbles, nibbleAt]
  | case3 a b rest ih =>
    match k with
    | 0 => simp [packNibbles, nibbleAt]
    | 1 => simp [packNibbles, nibbleAt]
    | k + 2 =>
      rw [packNibbles, nibbleAt_cons, ih (by simpa using hk)]; rfl

/-- The spare nibble of an odd list is the pad (R114). -/
theorem nibbleAt_packNibbles_pad (pad : Nibble) (ns : List Nibble) (h : ns.length % 2 = 1) :
    nibbleAt (packNibbles pad ns) ns.length = pad := by
  induction ns using packNibbles.induct with
  | case1 => simp at h
  | case2 a => simp [packNibbles, nibbleAt]
  | case3 a b rest ih =>
    rw [packNibbles, List.length_cons, List.length_cons, nibbleAt_cons, ih (by simp at h; omega)]

/-- The number of bytes of a region (R114). -/
theorem regionBytes_length (m : Memory) (x y w h : Nat) (pad : Nibble) :
    (regionBytes m x y w h pad).length = (w * h + 1) / 2 := by
  simp [regionBytes, packNibbles_length]

/-- Nibble `j*w + i` of a region is the pixel at column `i`, row `j` (R114, R119). -/
theorem nibbleAt_regionBytes (m : Memory) (x y w h : Nat) (pad : Nibble) {i j : Nat} (hi : i < w) (hj : j < h) :
    nibbleAt (regionBytes m x y w h pad) (j * w + i) = nibRead m (pixelIndex (x + i) (y + j)) := by
  have hk : j * w + i < w * h := by
    calc j * w + i < j * w + w := by omega
      _ = (j + 1) * w := by ring
      _ ≤ h * w := Nat.mul_le_mul_right w hj
      _ = w * h := Nat.mul_comm h w
  have hm : (j * w + i) % w = i := by rw [Nat.add_comm, Nat.add_mul_mod_self_right, Nat.mod_eq_of_lt hi]
  have hd : (j * w + i) / w = j := by
    rw [Nat.add_comm, Nat.add_mul_div_right _ _ (by omega), Nat.div_eq_of_lt hi, Nat.zero_add]
  rw [regionBytes, nibbleAt_packNibbles _ _ (by simpa using hk)]
  simp [regionPixel, hm, hd]

/-- The spare nibble of an odd region is the drawn one (R114). -/
theorem nibbleAt_regionBytes_pad (m : Memory) (x y w h : Nat) (pad : Nibble) (hodd : w * h % 2 = 1) :
    nibbleAt (regionBytes m x y w h pad) (w * h) = pad := by
  have := nibbleAt_packNibbles_pad pad ((List.range (w * h)).map (fun k => nibRead m (regionPixel x y w k)))
    (by simpa using hodd)
  simpa [regionBytes] using this

end Sys2Proof.Machine
end

