-- ==== Sys2Proof/Laws/State.lean ====
section
/-! SUPPORT. One lemma per field per update of the state, so that no later proof unfolds a record update. -/

namespace Sys2Proof.Machine

/-! ### tick -/

@[simp] theorem tick_buf (s : State) : (tick s).buf = s.buf := rfl
@[simp] theorem tick_rbuf (s : State) : (tick s).rbuf = s.rbuf := rfl
@[simp] theorem tick_border (s : State) : (tick s).border = s.border := rfl
@[simp] theorem tick_pcount (s : State) : (tick s).pcount = s.pcount := rfl
@[simp] theorem tick_lfrt (s : State) : (tick s).lfrt = s.lfrt := rfl
@[simp] theorem tick_pstate (s : State) : (tick s).pstate = s.pstate := rfl
@[simp] theorem tick_emu (s : State) : (tick s).emu = s.emu := rfl
@[simp] theorem tick_seq (s : State) : (tick s).seq = s.seq := rfl
@[simp] theorem tick_active (s : State) : (tick s).active = s.active := rfl
@[simp] theorem tick_host (s : State) : (tick s).host = s.host := rfl
@[simp] theorem tick_result (s : State) : (tick s).result = s.result := rfl
@[simp] theorem tick_trace (s : State) : (tick s).trace = s.trace := rfl
@[simp] theorem tick_env (s : State) : (tick s).env = { s.env with clk := s.env.clk + s.env.advance, advance := Config.freeAdvance s.env.draws, draws := s.env.draws + 1 } := rfl

/-! ### redrawFault -/

@[simp] theorem redrawFault_buf (s : State) : (redrawFault s).buf = s.buf := rfl
@[simp] theorem redrawFault_rbuf (s : State) : (redrawFault s).rbuf = s.rbuf := rfl
@[simp] theorem redrawFault_border (s : State) : (redrawFault s).border = s.border := rfl
@[simp] theorem redrawFault_pcount (s : State) : (redrawFault s).pcount = s.pcount := rfl
@[simp] theorem redrawFault_lfrt (s : State) : (redrawFault s).lfrt = s.lfrt := rfl
@[simp] theorem redrawFault_pstate (s : State) : (redrawFault s).pstate = s.pstate := rfl
@[simp] theorem redrawFault_emu (s : State) : (redrawFault s).emu = s.emu := rfl
@[simp] theorem redrawFault_seq (s : State) : (redrawFault s).seq = s.seq := rfl
@[simp] theorem redrawFault_active (s : State) : (redrawFault s).active = s.active := rfl
@[simp] theorem redrawFault_host (s : State) : (redrawFault s).host = s.host := rfl
@[simp] theorem redrawFault_result (s : State) : (redrawFault s).result = s.result := rfl
@[simp] theorem redrawFault_trace (s : State) : (redrawFault s).trace = s.trace := rfl
@[simp] theorem redrawFault_env (s : State) : (redrawFault s).env = { s.env with fault := Config.freeFault s.env.draws, draws := s.env.draws + 1 } := rfl

/-! ### redrawPad -/

@[simp] theorem redrawPad_buf (s : State) : (redrawPad s).buf = s.buf := rfl
@[simp] theorem redrawPad_rbuf (s : State) : (redrawPad s).rbuf = s.rbuf := rfl
@[simp] theorem redrawPad_border (s : State) : (redrawPad s).border = s.border := rfl
@[simp] theorem redrawPad_pcount (s : State) : (redrawPad s).pcount = s.pcount := rfl
@[simp] theorem redrawPad_lfrt (s : State) : (redrawPad s).lfrt = s.lfrt := rfl
@[simp] theorem redrawPad_pstate (s : State) : (redrawPad s).pstate = s.pstate := rfl
@[simp] theorem redrawPad_emu (s : State) : (redrawPad s).emu = s.emu := rfl
@[simp] theorem redrawPad_seq (s : State) : (redrawPad s).seq = s.seq := rfl
@[simp] theorem redrawPad_active (s : State) : (redrawPad s).active = s.active := rfl
@[simp] theorem redrawPad_host (s : State) : (redrawPad s).host = s.host := rfl
@[simp] theorem redrawPad_result (s : State) : (redrawPad s).result = s.result := rfl
@[simp] theorem redrawPad_trace (s : State) : (redrawPad s).trace = s.trace := rfl
@[simp] theorem redrawPad_env (s : State) : (redrawPad s).env = { s.env with pad := Config.freePad s.env.draws, draws := s.env.draws + 1 } := rfl

/-! ### redrawReady -/

@[simp] theorem redrawReady_buf (s : State) : (redrawReady s).buf = s.buf := rfl
@[simp] theorem redrawReady_rbuf (s : State) : (redrawReady s).rbuf = s.rbuf := rfl
@[simp] theorem redrawReady_border (s : State) : (redrawReady s).border = s.border := rfl
@[simp] theorem redrawReady_pcount (s : State) : (redrawReady s).pcount = s.pcount := rfl
@[simp] theorem redrawReady_lfrt (s : State) : (redrawReady s).lfrt = s.lfrt := rfl
@[simp] theorem redrawReady_pstate (s : State) : (redrawReady s).pstate = s.pstate := rfl
@[simp] theorem redrawReady_emu (s : State) : (redrawReady s).emu = s.emu := rfl
@[simp] theorem redrawReady_seq (s : State) : (redrawReady s).seq = s.seq := rfl
@[simp] theorem redrawReady_active (s : State) : (redrawReady s).active = s.active := rfl
@[simp] theorem redrawReady_host (s : State) : (redrawReady s).host = s.host := rfl
@[simp] theorem redrawReady_result (s : State) : (redrawReady s).result = s.result := rfl
@[simp] theorem redrawReady_trace (s : State) : (redrawReady s).trace = s.trace := rfl
@[simp] theorem redrawReady_env (s : State) : (redrawReady s).env = { s.env with ready := Config.freeReady s.env.draws, draws := s.env.draws + 1 } := rfl

/-! ### setBuf -/

@[simp] theorem setBuf_buf (v : Memory) (s : State) : (setBuf v s).buf = v := rfl
@[simp] theorem setBuf_rbuf (v : Memory) (s : State) : (setBuf v s).rbuf = s.rbuf := rfl
@[simp] theorem setBuf_border (v : Memory) (s : State) : (setBuf v s).border = s.border := rfl
@[simp] theorem setBuf_pcount (v : Memory) (s : State) : (setBuf v s).pcount = s.pcount := rfl
@[simp] theorem setBuf_lfrt (v : Memory) (s : State) : (setBuf v s).lfrt = s.lfrt := rfl
@[simp] theorem setBuf_pstate (v : Memory) (s : State) : (setBuf v s).pstate = s.pstate := rfl
@[simp] theorem setBuf_emu (v : Memory) (s : State) : (setBuf v s).emu = s.emu := rfl
@[simp] theorem setBuf_seq (v : Memory) (s : State) : (setBuf v s).seq = s.seq := rfl
@[simp] theorem setBuf_active (v : Memory) (s : State) : (setBuf v s).active = s.active := rfl
@[simp] theorem setBuf_host (v : Memory) (s : State) : (setBuf v s).host = s.host := rfl
@[simp] theorem setBuf_result (v : Memory) (s : State) : (setBuf v s).result = s.result := rfl
@[simp] theorem setBuf_trace (v : Memory) (s : State) : (setBuf v s).trace = s.trace := rfl
@[simp] theorem setBuf_env (v : Memory) (s : State) : (setBuf v s).env = s.env := rfl

/-! ### setRbuf -/

@[simp] theorem setRbuf_buf (v : List Byte) (s : State) : (setRbuf v s).buf = s.buf := rfl
@[simp] theorem setRbuf_rbuf (v : List Byte) (s : State) : (setRbuf v s).rbuf = v := rfl
@[simp] theorem setRbuf_border (v : List Byte) (s : State) : (setRbuf v s).border = s.border := rfl
@[simp] theorem setRbuf_pcount (v : List Byte) (s : State) : (setRbuf v s).pcount = s.pcount := rfl
@[simp] theorem setRbuf_lfrt (v : List Byte) (s : State) : (setRbuf v s).lfrt = s.lfrt := rfl
@[simp] theorem setRbuf_pstate (v : List Byte) (s : State) : (setRbuf v s).pstate = s.pstate := rfl
@[simp] theorem setRbuf_emu (v : List Byte) (s : State) : (setRbuf v s).emu = s.emu := rfl
@[simp] theorem setRbuf_seq (v : List Byte) (s : State) : (setRbuf v s).seq = s.seq := rfl
@[simp] theorem setRbuf_active (v : List Byte) (s : State) : (setRbuf v s).active = s.active := rfl
@[simp] theorem setRbuf_host (v : List Byte) (s : State) : (setRbuf v s).host = s.host := rfl
@[simp] theorem setRbuf_result (v : List Byte) (s : State) : (setRbuf v s).result = s.result := rfl
@[simp] theorem setRbuf_trace (v : List Byte) (s : State) : (setRbuf v s).trace = s.trace := rfl
@[simp] theorem setRbuf_env (v : List Byte) (s : State) : (setRbuf v s).env = s.env := rfl

/-! ### setBorder -/

@[simp] theorem setBorder_buf (v : BitVec 3) (s : State) : (setBorder v s).buf = s.buf := rfl
@[simp] theorem setBorder_rbuf (v : BitVec 3) (s : State) : (setBorder v s).rbuf = s.rbuf := rfl
@[simp] theorem setBorder_border (v : BitVec 3) (s : State) : (setBorder v s).border = v := rfl
@[simp] theorem setBorder_pcount (v : BitVec 3) (s : State) : (setBorder v s).pcount = s.pcount := rfl
@[simp] theorem setBorder_lfrt (v : BitVec 3) (s : State) : (setBorder v s).lfrt = s.lfrt := rfl
@[simp] theorem setBorder_pstate (v : BitVec 3) (s : State) : (setBorder v s).pstate = s.pstate := rfl
@[simp] theorem setBorder_emu (v : BitVec 3) (s : State) : (setBorder v s).emu = s.emu := rfl
@[simp] theorem setBorder_seq (v : BitVec 3) (s : State) : (setBorder v s).seq = s.seq := rfl
@[simp] theorem setBorder_active (v : BitVec 3) (s : State) : (setBorder v s).active = s.active := rfl
@[simp] theorem setBorder_host (v : BitVec 3) (s : State) : (setBorder v s).host = s.host := rfl
@[simp] theorem setBorder_result (v : BitVec 3) (s : State) : (setBorder v s).result = s.result := rfl
@[simp] theorem setBorder_trace (v : BitVec 3) (s : State) : (setBorder v s).trace = s.trace := rfl
@[simp] theorem setBorder_env (v : BitVec 3) (s : State) : (setBorder v s).env = s.env := rfl

/-! ### setPcount -/

@[simp] theorem setPcount_buf (v : BitVec 32) (s : State) : (setPcount v s).buf = s.buf := rfl
@[simp] theorem setPcount_rbuf (v : BitVec 32) (s : State) : (setPcount v s).rbuf = s.rbuf := rfl
@[simp] theorem setPcount_border (v : BitVec 32) (s : State) : (setPcount v s).border = s.border := rfl
@[simp] theorem setPcount_pcount (v : BitVec 32) (s : State) : (setPcount v s).pcount = v := rfl
@[simp] theorem setPcount_lfrt (v : BitVec 32) (s : State) : (setPcount v s).lfrt = s.lfrt := rfl
@[simp] theorem setPcount_pstate (v : BitVec 32) (s : State) : (setPcount v s).pstate = s.pstate := rfl
@[simp] theorem setPcount_emu (v : BitVec 32) (s : State) : (setPcount v s).emu = s.emu := rfl
@[simp] theorem setPcount_seq (v : BitVec 32) (s : State) : (setPcount v s).seq = s.seq := rfl
@[simp] theorem setPcount_active (v : BitVec 32) (s : State) : (setPcount v s).active = s.active := rfl
@[simp] theorem setPcount_host (v : BitVec 32) (s : State) : (setPcount v s).host = s.host := rfl
@[simp] theorem setPcount_result (v : BitVec 32) (s : State) : (setPcount v s).result = s.result := rfl
@[simp] theorem setPcount_trace (v : BitVec 32) (s : State) : (setPcount v s).trace = s.trace := rfl
@[simp] theorem setPcount_env (v : BitVec 32) (s : State) : (setPcount v s).env = s.env := rfl

/-! ### setLfrt -/

@[simp] theorem setLfrt_buf (v : Nat) (s : State) : (setLfrt v s).buf = s.buf := rfl
@[simp] theorem setLfrt_rbuf (v : Nat) (s : State) : (setLfrt v s).rbuf = s.rbuf := rfl
@[simp] theorem setLfrt_border (v : Nat) (s : State) : (setLfrt v s).border = s.border := rfl
@[simp] theorem setLfrt_pcount (v : Nat) (s : State) : (setLfrt v s).pcount = s.pcount := rfl
@[simp] theorem setLfrt_lfrt (v : Nat) (s : State) : (setLfrt v s).lfrt = v := rfl
@[simp] theorem setLfrt_pstate (v : Nat) (s : State) : (setLfrt v s).pstate = s.pstate := rfl
@[simp] theorem setLfrt_emu (v : Nat) (s : State) : (setLfrt v s).emu = s.emu := rfl
@[simp] theorem setLfrt_seq (v : Nat) (s : State) : (setLfrt v s).seq = s.seq := rfl
@[simp] theorem setLfrt_active (v : Nat) (s : State) : (setLfrt v s).active = s.active := rfl
@[simp] theorem setLfrt_host (v : Nat) (s : State) : (setLfrt v s).host = s.host := rfl
@[simp] theorem setLfrt_result (v : Nat) (s : State) : (setLfrt v s).result = s.result := rfl
@[simp] theorem setLfrt_trace (v : Nat) (s : State) : (setLfrt v s).trace = s.trace := rfl
@[simp] theorem setLfrt_env (v : Nat) (s : State) : (setLfrt v s).env = s.env := rfl

/-! ### setPstate -/

@[simp] theorem setPstate_buf (v : PState) (s : State) : (setPstate v s).buf = s.buf := rfl
@[simp] theorem setPstate_rbuf (v : PState) (s : State) : (setPstate v s).rbuf = s.rbuf := rfl
@[simp] theorem setPstate_border (v : PState) (s : State) : (setPstate v s).border = s.border := rfl
@[simp] theorem setPstate_pcount (v : PState) (s : State) : (setPstate v s).pcount = s.pcount := rfl
@[simp] theorem setPstate_lfrt (v : PState) (s : State) : (setPstate v s).lfrt = s.lfrt := rfl
@[simp] theorem setPstate_pstate (v : PState) (s : State) : (setPstate v s).pstate = v := rfl
@[simp] theorem setPstate_emu (v : PState) (s : State) : (setPstate v s).emu = s.emu := rfl
@[simp] theorem setPstate_seq (v : PState) (s : State) : (setPstate v s).seq = s.seq := rfl
@[simp] theorem setPstate_active (v : PState) (s : State) : (setPstate v s).active = s.active := rfl
@[simp] theorem setPstate_host (v : PState) (s : State) : (setPstate v s).host = s.host := rfl
@[simp] theorem setPstate_result (v : PState) (s : State) : (setPstate v s).result = s.result := rfl
@[simp] theorem setPstate_trace (v : PState) (s : State) : (setPstate v s).trace = s.trace := rfl
@[simp] theorem setPstate_env (v : PState) (s : State) : (setPstate v s).env = s.env := rfl

/-! ### setEmu -/

@[simp] theorem setEmu_buf (v : Bool) (s : State) : (setEmu v s).buf = s.buf := rfl
@[simp] theorem setEmu_rbuf (v : Bool) (s : State) : (setEmu v s).rbuf = s.rbuf := rfl
@[simp] theorem setEmu_border (v : Bool) (s : State) : (setEmu v s).border = s.border := rfl
@[simp] theorem setEmu_pcount (v : Bool) (s : State) : (setEmu v s).pcount = s.pcount := rfl
@[simp] theorem setEmu_lfrt (v : Bool) (s : State) : (setEmu v s).lfrt = s.lfrt := rfl
@[simp] theorem setEmu_pstate (v : Bool) (s : State) : (setEmu v s).pstate = s.pstate := rfl
@[simp] theorem setEmu_emu (v : Bool) (s : State) : (setEmu v s).emu = v := rfl
@[simp] theorem setEmu_seq (v : Bool) (s : State) : (setEmu v s).seq = s.seq := rfl
@[simp] theorem setEmu_active (v : Bool) (s : State) : (setEmu v s).active = s.active := rfl
@[simp] theorem setEmu_host (v : Bool) (s : State) : (setEmu v s).host = s.host := rfl
@[simp] theorem setEmu_result (v : Bool) (s : State) : (setEmu v s).result = s.result := rfl
@[simp] theorem setEmu_trace (v : Bool) (s : State) : (setEmu v s).trace = s.trace := rfl
@[simp] theorem setEmu_env (v : Bool) (s : State) : (setEmu v s).env = s.env := rfl

/-! ### setSeq -/

@[simp] theorem setSeq_buf (v : SeqStep) (s : State) : (setSeq v s).buf = s.buf := rfl
@[simp] theorem setSeq_rbuf (v : SeqStep) (s : State) : (setSeq v s).rbuf = s.rbuf := rfl
@[simp] theorem setSeq_border (v : SeqStep) (s : State) : (setSeq v s).border = s.border := rfl
@[simp] theorem setSeq_pcount (v : SeqStep) (s : State) : (setSeq v s).pcount = s.pcount := rfl
@[simp] theorem setSeq_lfrt (v : SeqStep) (s : State) : (setSeq v s).lfrt = s.lfrt := rfl
@[simp] theorem setSeq_pstate (v : SeqStep) (s : State) : (setSeq v s).pstate = s.pstate := rfl
@[simp] theorem setSeq_emu (v : SeqStep) (s : State) : (setSeq v s).emu = s.emu := rfl
@[simp] theorem setSeq_seq (v : SeqStep) (s : State) : (setSeq v s).seq = v := rfl
@[simp] theorem setSeq_active (v : SeqStep) (s : State) : (setSeq v s).active = s.active := rfl
@[simp] theorem setSeq_host (v : SeqStep) (s : State) : (setSeq v s).host = s.host := rfl
@[simp] theorem setSeq_result (v : SeqStep) (s : State) : (setSeq v s).result = s.result := rfl
@[simp] theorem setSeq_trace (v : SeqStep) (s : State) : (setSeq v s).trace = s.trace := rfl
@[simp] theorem setSeq_env (v : SeqStep) (s : State) : (setSeq v s).env = s.env := rfl

/-! ### setActive -/

@[simp] theorem setActive_buf (v : Active) (s : State) : (setActive v s).buf = s.buf := rfl
@[simp] theorem setActive_rbuf (v : Active) (s : State) : (setActive v s).rbuf = s.rbuf := rfl
@[simp] theorem setActive_border (v : Active) (s : State) : (setActive v s).border = s.border := rfl
@[simp] theorem setActive_pcount (v : Active) (s : State) : (setActive v s).pcount = s.pcount := rfl
@[simp] theorem setActive_lfrt (v : Active) (s : State) : (setActive v s).lfrt = s.lfrt := rfl
@[simp] theorem setActive_pstate (v : Active) (s : State) : (setActive v s).pstate = s.pstate := rfl
@[simp] theorem setActive_emu (v : Active) (s : State) : (setActive v s).emu = s.emu := rfl
@[simp] theorem setActive_seq (v : Active) (s : State) : (setActive v s).seq = s.seq := rfl
@[simp] theorem setActive_active (v : Active) (s : State) : (setActive v s).active = v := rfl
@[simp] theorem setActive_host (v : Active) (s : State) : (setActive v s).host = s.host := rfl
@[simp] theorem setActive_result (v : Active) (s : State) : (setActive v s).result = s.result := rfl
@[simp] theorem setActive_trace (v : Active) (s : State) : (setActive v s).trace = s.trace := rfl
@[simp] theorem setActive_env (v : Active) (s : State) : (setActive v s).env = s.env := rfl

/-! ### setHost -/

@[simp] theorem setHost_buf (v : List HostInput) (s : State) : (setHost v s).buf = s.buf := rfl
@[simp] theorem setHost_rbuf (v : List HostInput) (s : State) : (setHost v s).rbuf = s.rbuf := rfl
@[simp] theorem setHost_border (v : List HostInput) (s : State) : (setHost v s).border = s.border := rfl
@[simp] theorem setHost_pcount (v : List HostInput) (s : State) : (setHost v s).pcount = s.pcount := rfl
@[simp] theorem setHost_lfrt (v : List HostInput) (s : State) : (setHost v s).lfrt = s.lfrt := rfl
@[simp] theorem setHost_pstate (v : List HostInput) (s : State) : (setHost v s).pstate = s.pstate := rfl
@[simp] theorem setHost_emu (v : List HostInput) (s : State) : (setHost v s).emu = s.emu := rfl
@[simp] theorem setHost_seq (v : List HostInput) (s : State) : (setHost v s).seq = s.seq := rfl
@[simp] theorem setHost_active (v : List HostInput) (s : State) : (setHost v s).active = s.active := rfl
@[simp] theorem setHost_host (v : List HostInput) (s : State) : (setHost v s).host = v := rfl
@[simp] theorem setHost_result (v : List HostInput) (s : State) : (setHost v s).result = s.result := rfl
@[simp] theorem setHost_trace (v : List HostInput) (s : State) : (setHost v s).trace = s.trace := rfl
@[simp] theorem setHost_env (v : List HostInput) (s : State) : (setHost v s).env = s.env := rfl

/-! ### beginOp -/

@[simp] theorem beginOp_buf (s : State) : (beginOp s).buf = s.buf := rfl
@[simp] theorem beginOp_rbuf (s : State) : (beginOp s).rbuf = s.rbuf := rfl
@[simp] theorem beginOp_border (s : State) : (beginOp s).border = s.border := rfl
@[simp] theorem beginOp_pcount (s : State) : (beginOp s).pcount = s.pcount := rfl
@[simp] theorem beginOp_lfrt (s : State) : (beginOp s).lfrt = s.lfrt := rfl
@[simp] theorem beginOp_pstate (s : State) : (beginOp s).pstate = s.pstate := rfl
@[simp] theorem beginOp_emu (s : State) : (beginOp s).emu = s.emu := rfl
@[simp] theorem beginOp_seq (s : State) : (beginOp s).seq = s.seq := rfl
@[simp] theorem beginOp_active (s : State) : (beginOp s).active = s.active := rfl
@[simp] theorem beginOp_host (s : State) : (beginOp s).host = s.host := rfl
@[simp] theorem beginOp_result (s : State) : (beginOp s).result = none := rfl
@[simp] theorem beginOp_trace (s : State) : (beginOp s).trace = [] := rfl
@[simp] theorem beginOp_env (s : State) : (beginOp s).env = s.env := rfl

/-! ### complete -/

@[simp] theorem complete_buf (r : Result) (s : State) : (complete r s).buf = s.buf := rfl
@[simp] theorem complete_rbuf (r : Result) (s : State) : (complete r s).rbuf = [] := rfl
@[simp] theorem complete_border (r : Result) (s : State) : (complete r s).border = s.border := rfl
@[simp] theorem complete_pcount (r : Result) (s : State) : (complete r s).pcount = s.pcount := rfl
@[simp] theorem complete_lfrt (r : Result) (s : State) : (complete r s).lfrt = s.lfrt := rfl
@[simp] theorem complete_pstate (r : Result) (s : State) : (complete r s).pstate = s.pstate := rfl
@[simp] theorem complete_emu (r : Result) (s : State) : (complete r s).emu = s.emu := rfl
@[simp] theorem complete_seq (r : Result) (s : State) : (complete r s).seq = .none := rfl
@[simp] theorem complete_active (r : Result) (s : State) : (complete r s).active = .idle := rfl
@[simp] theorem complete_host (r : Result) (s : State) : (complete r s).host = s.host := rfl
@[simp] theorem complete_result (r : Result) (s : State) : (complete r s).result = some r := rfl
@[simp] theorem complete_trace (r : Result) (s : State) : (complete r s).trace = s.trace := rfl
@[simp] theorem complete_env (r : Result) (s : State) : (complete r s).env = (tick s).env := rfl

/-! ### raise -/

@[simp] theorem raise_buf (x : ErrorClass) (s : State) : (raise x s).buf = s.buf := rfl
@[simp] theorem raise_rbuf (x : ErrorClass) (s : State) : (raise x s).rbuf = [] := rfl
@[simp] theorem raise_border (x : ErrorClass) (s : State) : (raise x s).border = s.border := rfl
@[simp] theorem raise_pcount (x : ErrorClass) (s : State) : (raise x s).pcount = s.pcount := rfl
@[simp] theorem raise_lfrt (x : ErrorClass) (s : State) : (raise x s).lfrt = s.lfrt := rfl
@[simp] theorem raise_pstate (x : ErrorClass) (s : State) : (raise x s).pstate = s.pstate := rfl
@[simp] theorem raise_emu (x : ErrorClass) (s : State) : (raise x s).emu = s.emu := rfl
@[simp] theorem raise_seq (x : ErrorClass) (s : State) : (raise x s).seq = .none := rfl
@[simp] theorem raise_active (x : ErrorClass) (s : State) : (raise x s).active = .idle := rfl
@[simp] theorem raise_host (x : ErrorClass) (s : State) : (raise x s).host = s.host := rfl
@[simp] theorem raise_result (x : ErrorClass) (s : State) : (raise x s).result = some ⟨statusOf x, 0, []⟩ := rfl
@[simp] theorem raise_trace (x : ErrorClass) (s : State) : (raise x s).trace = s.trace := rfl
@[simp] theorem raise_env (x : ErrorClass) (s : State) : (raise x s).env = (tick s).env := rfl

/-! ### emit -/

@[simp] theorem emit_buf (es : List Event) (s : State) : (emit es s).buf = s.buf := rfl
@[simp] theorem emit_rbuf (es : List Event) (s : State) : (emit es s).rbuf = s.rbuf := rfl
@[simp] theorem emit_border (es : List Event) (s : State) : (emit es s).border = s.border := rfl
@[simp] theorem emit_pcount (es : List Event) (s : State) : (emit es s).pcount = s.pcount := rfl
@[simp] theorem emit_lfrt (es : List Event) (s : State) : (emit es s).lfrt = s.lfrt := rfl
@[simp] theorem emit_pstate (es : List Event) (s : State) : (emit es s).pstate = s.pstate := rfl
@[simp] theorem emit_emu (es : List Event) (s : State) : (emit es s).emu = s.emu := rfl
@[simp] theorem emit_seq (es : List Event) (s : State) : (emit es s).seq = s.seq := rfl
@[simp] theorem emit_active (es : List Event) (s : State) : (emit es s).active = s.active := rfl
@[simp] theorem emit_host (es : List Event) (s : State) : (emit es s).host = s.host := rfl
@[simp] theorem emit_result (es : List Event) (s : State) : (emit es s).result = s.result := rfl
@[simp] theorem emit_trace (es : List Event) (s : State) : (emit es s).trace = if s.emu then s.trace else s.trace ++ es := rfl
@[simp] theorem emit_env (es : List Event) (s : State) : (emit es s).env = s.env := rfl

/-! ### sendStep -/

@[simp] theorem sendStep_buf (b : Byte) (bs : List Byte) (s : State) : (sendStep b bs s).buf = s.buf := rfl
@[simp] theorem sendStep_rbuf (b : Byte) (bs : List Byte) (s : State) : (sendStep b bs s).rbuf = s.rbuf := rfl
@[simp] theorem sendStep_border (b : Byte) (bs : List Byte) (s : State) : (sendStep b bs s).border = s.border := rfl
@[simp] theorem sendStep_pcount (b : Byte) (bs : List Byte) (s : State) : (sendStep b bs s).pcount = s.pcount := rfl
@[simp] theorem sendStep_lfrt (b : Byte) (bs : List Byte) (s : State) : (sendStep b bs s).lfrt = s.lfrt := rfl
@[simp] theorem sendStep_pstate (b : Byte) (bs : List Byte) (s : State) : (sendStep b bs s).pstate = s.pstate := rfl
@[simp] theorem sendStep_emu (b : Byte) (bs : List Byte) (s : State) : (sendStep b bs s).emu = s.emu := rfl
@[simp] theorem sendStep_seq (b : Byte) (bs : List Byte) (s : State) : (sendStep b bs s).seq = s.seq := rfl
@[simp] theorem sendStep_active (b : Byte) (bs : List Byte) (s : State) : (sendStep b bs s).active = s.active := rfl
@[simp] theorem sendStep_host (b : Byte) (bs : List Byte) (s : State) : (sendStep b bs s).host = s.host := rfl
@[simp] theorem sendStep_result (b : Byte) (bs : List Byte) (s : State) : (sendStep b bs s).result = s.result := rfl
@[simp] theorem sendStep_trace (b : Byte) (bs : List Byte) (s : State) : (sendStep b bs s).trace = if s.emu then s.trace else s.trace ++ stepEvents b bs := rfl
@[simp] theorem sendStep_env (b : Byte) (bs : List Byte) (s : State) : (sendStep b bs s).env = s.env := rfl

/-! ### settle -/

@[simp] theorem settle_buf (p : PState) (s : State) : (settle p s).buf = s.buf := rfl
@[simp] theorem settle_rbuf (p : PState) (s : State) : (settle p s).rbuf = s.rbuf := rfl
@[simp] theorem settle_border (p : PState) (s : State) : (settle p s).border = s.border := rfl
@[simp] theorem settle_pcount (p : PState) (s : State) : (settle p s).pcount = s.pcount := rfl
@[simp] theorem settle_lfrt (p : PState) (s : State) : (settle p s).lfrt = s.lfrt := rfl
@[simp] theorem settle_pstate (p : PState) (s : State) : (settle p s).pstate = p := rfl
@[simp] theorem settle_emu (p : PState) (s : State) : (settle p s).emu = s.emu := rfl
@[simp] theorem settle_seq (p : PState) (s : State) : (settle p s).seq = s.seq := rfl
@[simp] theorem settle_active (p : PState) (s : State) : (settle p s).active = s.active := rfl
@[simp] theorem settle_host (p : PState) (s : State) : (settle p s).host = s.host := rfl
@[simp] theorem settle_result (p : PState) (s : State) : (settle p s).result = s.result := rfl
@[simp] theorem settle_trace (p : PState) (s : State) : (settle p s).trace = if s.emu then s.trace else s.trace ++ [.dly Config.settleMs] := rfl
@[simp] theorem settle_env (p : PState) (s : State) : (settle p s).env = s.env := rfl

/-! ### forget -/

@[simp] theorem forget_buf (s : State) : (forget s).buf = memOf (Config.freeBufByte s.env.draws) := rfl
@[simp] theorem forget_rbuf (s : State) : (forget s).rbuf = s.rbuf := rfl
@[simp] theorem forget_border (s : State) : (forget s).border = Config.freeBorder s.env.draws := rfl
@[simp] theorem forget_pcount (s : State) : (forget s).pcount = Config.freeCount s.env.draws := rfl
@[simp] theorem forget_lfrt (s : State) : (forget s).lfrt = Config.freeTime s.env.draws := rfl
@[simp] theorem forget_pstate (s : State) : (forget s).pstate = s.pstate := rfl
@[simp] theorem forget_emu (s : State) : (forget s).emu = Config.freeEmu s.env.draws := rfl
@[simp] theorem forget_seq (s : State) : (forget s).seq = s.seq := rfl
@[simp] theorem forget_active (s : State) : (forget s).active = s.active := rfl
@[simp] theorem forget_host (s : State) : (forget s).host = s.host := rfl
@[simp] theorem forget_result (s : State) : (forget s).result = s.result := rfl
@[simp] theorem forget_trace (s : State) : (forget s).trace = s.trace := rfl
@[simp] theorem forget_env (s : State) : (forget s).env = { s.env with draws := s.env.draws + 1 } := rfl

/-! ### recordFull -/

@[simp] theorem recordFull_buf (s : State) : (recordFull s).buf = s.buf := rfl
@[simp] theorem recordFull_rbuf (s : State) : (recordFull s).rbuf = s.rbuf := rfl
@[simp] theorem recordFull_border (s : State) : (recordFull s).border = s.border := rfl
@[simp] theorem recordFull_pcount (s : State) : (recordFull s).pcount = 0 := rfl
@[simp] theorem recordFull_lfrt (s : State) : (recordFull s).lfrt = s.env.clk + s.env.advance := rfl
@[simp] theorem recordFull_pstate (s : State) : (recordFull s).pstate = s.pstate := rfl
@[simp] theorem recordFull_emu (s : State) : (recordFull s).emu = s.emu := rfl
@[simp] theorem recordFull_seq (s : State) : (recordFull s).seq = s.seq := rfl
@[simp] theorem recordFull_active (s : State) : (recordFull s).active = s.active := rfl
@[simp] theorem recordFull_host (s : State) : (recordFull s).host = s.host := rfl
@[simp] theorem recordFull_result (s : State) : (recordFull s).result = s.result := rfl
@[simp] theorem recordFull_trace (s : State) : (recordFull s).trace = s.trace := rfl
@[simp] theorem recordFull_env (s : State) : (recordFull s).env = (tick s).env := rfl

/-! ### recordPartial -/

@[simp] theorem recordPartial_buf (s : State) : (recordPartial s).buf = s.buf := rfl
@[simp] theorem recordPartial_rbuf (s : State) : (recordPartial s).rbuf = s.rbuf := rfl
@[simp] theorem recordPartial_border (s : State) : (recordPartial s).border = s.border := rfl
@[simp] theorem recordPartial_pcount (s : State) : (recordPartial s).pcount = s.pcount + 1 := rfl
@[simp] theorem recordPartial_lfrt (s : State) : (recordPartial s).lfrt = s.lfrt := rfl
@[simp] theorem recordPartial_pstate (s : State) : (recordPartial s).pstate = s.pstate := rfl
@[simp] theorem recordPartial_emu (s : State) : (recordPartial s).emu = s.emu := rfl
@[simp] theorem recordPartial_seq (s : State) : (recordPartial s).seq = s.seq := rfl
@[simp] theorem recordPartial_active (s : State) : (recordPartial s).active = s.active := rfl
@[simp] theorem recordPartial_host (s : State) : (recordPartial s).host = s.host := rfl
@[simp] theorem recordPartial_result (s : State) : (recordPartial s).result = s.result := rfl
@[simp] theorem recordPartial_trace (s : State) : (recordPartial s).trace = s.trace := rfl
@[simp] theorem recordPartial_env (s : State) : (recordPartial s).env = s.env := rfl

/-! ### startFullUpdate -/

@[simp] theorem startFullUpdate_buf (s : State) : (startFullUpdate s).buf = s.buf := rfl
@[simp] theorem startFullUpdate_rbuf (s : State) : (startFullUpdate s).rbuf = s.rbuf := rfl
@[simp] theorem startFullUpdate_border (s : State) : (startFullUpdate s).border = s.border := rfl
@[simp] theorem startFullUpdate_pcount (s : State) : (startFullUpdate s).pcount = 0 := rfl
@[simp] theorem startFullUpdate_lfrt (s : State) : (startFullUpdate s).lfrt = s.env.clk + s.env.advance := rfl
@[simp] theorem startFullUpdate_pstate (s : State) : (startFullUpdate s).pstate = s.pstate := rfl
@[simp] theorem startFullUpdate_emu (s : State) : (startFullUpdate s).emu = s.emu := rfl
@[simp] theorem startFullUpdate_seq (s : State) : (startFullUpdate s).seq = .f0Data := rfl
@[simp] theorem startFullUpdate_active (s : State) : (startFullUpdate s).active = .fullUpdate := rfl
@[simp] theorem startFullUpdate_host (s : State) : (startFullUpdate s).host = s.host := rfl
@[simp] theorem startFullUpdate_result (s : State) : (startFullUpdate s).result = none := rfl
@[simp] theorem startFullUpdate_trace (s : State) : (startFullUpdate s).trace = [] := rfl
@[simp] theorem startFullUpdate_env (s : State) : (startFullUpdate s).env = (tick s).env := rfl

/-! ### startRegionUpdate -/

@[simp] theorem startRegionUpdate_buf (x y w h : Coord) (s : State) : (startRegionUpdate x y w h s).buf = s.buf := rfl
@[simp] theorem startRegionUpdate_rbuf (x y w h : Coord) (s : State) : (startRegionUpdate x y w h s).rbuf = s.rbuf := rfl
@[simp] theorem startRegionUpdate_border (x y w h : Coord) (s : State) : (startRegionUpdate x y w h s).border = s.border := rfl
@[simp] theorem startRegionUpdate_pcount (x y w h : Coord) (s : State) : (startRegionUpdate x y w h s).pcount = s.pcount + 1 := rfl
@[simp] theorem startRegionUpdate_lfrt (x y w h : Coord) (s : State) : (startRegionUpdate x y w h s).lfrt = s.lfrt := rfl
@[simp] theorem startRegionUpdate_pstate (x y w h : Coord) (s : State) : (startRegionUpdate x y w h s).pstate = s.pstate := rfl
@[simp] theorem startRegionUpdate_emu (x y w h : Coord) (s : State) : (startRegionUpdate x y w h s).emu = s.emu := rfl
@[simp] theorem startRegionUpdate_seq (x y w h : Coord) (s : State) : (startRegionUpdate x y w h s).seq = .i0Reset := rfl
@[simp] theorem startRegionUpdate_active (x y w h : Coord) (s : State) : (startRegionUpdate x y w h s).active = .regionUpdate x y w h := rfl
@[simp] theorem startRegionUpdate_host (x y w h : Coord) (s : State) : (startRegionUpdate x y w h s).host = s.host := rfl
@[simp] theorem startRegionUpdate_result (x y w h : Coord) (s : State) : (startRegionUpdate x y w h s).result = none := rfl
@[simp] theorem startRegionUpdate_trace (x y w h : Coord) (s : State) : (startRegionUpdate x y w h s).trace = [] := rfl
@[simp] theorem startRegionUpdate_env (x y w h : Coord) (s : State) : (startRegionUpdate x y w h s).env = s.env := rfl

/-! ### startInitialise -/

@[simp] theorem startInitialise_buf (e : Bool) (s : State) : (startInitialise e s).buf = memFill (byteOf Config.white Config.white) := rfl
@[simp] theorem startInitialise_rbuf (e : Bool) (s : State) : (startInitialise e s).rbuf = s.rbuf := rfl
@[simp] theorem startInitialise_border (e : Bool) (s : State) : (startInitialise e s).border = 1 := rfl
@[simp] theorem startInitialise_pcount (e : Bool) (s : State) : (startInitialise e s).pcount = 0 := rfl
@[simp] theorem startInitialise_lfrt (e : Bool) (s : State) : (startInitialise e s).lfrt = s.env.clk + s.env.advance := rfl
@[simp] theorem startInitialise_pstate (e : Bool) (s : State) : (startInitialise e s).pstate = s.pstate := rfl
@[simp] theorem startInitialise_emu (e : Bool) (s : State) : (startInitialise e s).emu = e := rfl
@[simp] theorem startInitialise_seq (e : Bool) (s : State) : (startInitialise e s).seq = .i0Reset := rfl
@[simp] theorem startInitialise_active (e : Bool) (s : State) : (startInitialise e s).active = .initialise := rfl
@[simp] theorem startInitialise_host (e : Bool) (s : State) : (startInitialise e s).host = s.host := rfl
@[simp] theorem startInitialise_result (e : Bool) (s : State) : (startInitialise e s).result = s.result := rfl
@[simp] theorem startInitialise_trace (e : Bool) (s : State) : (startInitialise e s).trace = s.trace := rfl
@[simp] theorem startInitialise_env (e : Bool) (s : State) : (startInitialise e s).env = (tick s).env := rfl

/-! ### busyWait -/

@[simp] theorem busyWait_buf (s : State) : (busyWait s).buf = s.buf := by
  unfold busyWait; split <;> rfl
@[simp] theorem busyWait_rbuf (s : State) : (busyWait s).rbuf = s.rbuf := by
  unfold busyWait; split <;> rfl
@[simp] theorem busyWait_border (s : State) : (busyWait s).border = s.border := by
  unfold busyWait; split <;> rfl
@[simp] theorem busyWait_pcount (s : State) : (busyWait s).pcount = s.pcount := by
  unfold busyWait; split <;> rfl
@[simp] theorem busyWait_lfrt (s : State) : (busyWait s).lfrt = s.lfrt := by
  unfold busyWait; split <;> rfl
@[simp] theorem busyWait_pstate (s : State) : (busyWait s).pstate = s.pstate := by
  unfold busyWait; split <;> rfl
@[simp] theorem busyWait_emu (s : State) : (busyWait s).emu = s.emu := by
  unfold busyWait; split <;> rfl
@[simp] theorem busyWait_seq (s : State) : (busyWait s).seq = s.seq := by
  unfold busyWait; split <;> rfl
@[simp] theorem busyWait_active (s : State) : (busyWait s).active = s.active := by
  unfold busyWait; split <;> rfl
@[simp] theorem busyWait_host (s : State) : (busyWait s).host = s.host := by
  unfold busyWait; split <;> rfl
@[simp] theorem busyWait_result (s : State) : (busyWait s).result = s.result := by
  unfold busyWait; split <;> rfl
@[simp] theorem busyWait_trace (s : State) :
    (busyWait s).trace = if s.emu then s.trace else s.trace ++ waitEvents s.env.ready := by
  unfold busyWait emit; cases s.emu <;> rfl
@[simp] theorem busyWait_clk (s : State) : (busyWait s).env.clk = s.env.clk := by
  unfold busyWait; split <;> rfl
@[simp] theorem busyWait_advance (s : State) : (busyWait s).env.advance = s.env.advance := by
  unfold busyWait; split <;> rfl

/-! ### stageRegion -/

@[simp] theorem stageRegion_buf (x y w h : Coord) (s : State) : (stageRegion x y w h s).buf = s.buf := by
  unfold stageRegion; dsimp only; split <;> rfl
@[simp] theorem stageRegion_border (x y w h : Coord) (s : State) : (stageRegion x y w h s).border = s.border := by
  unfold stageRegion; dsimp only; split <;> rfl
@[simp] theorem stageRegion_pcount (x y w h : Coord) (s : State) : (stageRegion x y w h s).pcount = s.pcount := by
  unfold stageRegion; dsimp only; split <;> rfl
@[simp] theorem stageRegion_lfrt (x y w h : Coord) (s : State) : (stageRegion x y w h s).lfrt = s.lfrt := by
  unfold stageRegion; dsimp only; split <;> rfl
@[simp] theorem stageRegion_pstate (x y w h : Coord) (s : State) : (stageRegion x y w h s).pstate = s.pstate := by
  unfold stageRegion; dsimp only; split <;> rfl
@[simp] theorem stageRegion_emu (x y w h : Coord) (s : State) : (stageRegion x y w h s).emu = s.emu := by
  unfold stageRegion; dsimp only; split <;> rfl
@[simp] theorem stageRegion_seq (x y w h : Coord) (s : State) : (stageRegion x y w h s).seq = s.seq := by
  unfold stageRegion; dsimp only; split <;> rfl
@[simp] theorem stageRegion_active (x y w h : Coord) (s : State) : (stageRegion x y w h s).active = s.active := by
  unfold stageRegion; dsimp only; split <;> rfl
@[simp] theorem stageRegion_host (x y w h : Coord) (s : State) : (stageRegion x y w h s).host = s.host := by
  unfold stageRegion; dsimp only; split <;> rfl
@[simp] theorem stageRegion_result (x y w h : Coord) (s : State) : (stageRegion x y w h s).result = s.result := by
  unfold stageRegion; dsimp only; split <;> rfl
@[simp] theorem stageRegion_trace (x y w h : Coord) (s : State) : (stageRegion x y w h s).trace = s.trace := by
  unfold stageRegion; dsimp only; split <;> rfl
@[simp] theorem stageRegion_rbuf (x y w h : Coord) (s : State) :
    (stageRegion x y w h s).rbuf = regionBytes s.buf x.toNat y.toNat w.toNat h.toNat s.env.pad := by
  unfold stageRegion; dsimp only; split <;> rfl
@[simp] theorem stageRegion_clk (x y w h : Coord) (s : State) :
    (stageRegion x y w h s).env.clk = s.env.clk := by
  unfold stageRegion; dsimp only; split <;> rfl
@[simp] theorem stageRegion_ready (x y w h : Coord) (s : State) :
    (stageRegion x y w h s).env.ready = s.env.ready := by
  unfold stageRegion; dsimp only; split <;> rfl

/-! ### seqAction: what no step of the sequencer changes -/

@[simp] theorem seqAction_buf (q : SeqStep) (s : State) : (seqAction q s).buf = s.buf := by
  cases q <;> simp [seqAction, sendResolution, sendPanelSet, sendPowerSet, sendPllCtrl, sendTempEn, sendVcomDi,
    sendTconSet, sendDataMode, sendPwrSave, sendPoffSeq, sendBuffer, sendPartWindow, sendPartIn, sendRegion, sendPowerOn,
    sendRefresh, sendPowerOff, sendPartOut]
  all_goals (split <;> simp)
@[simp] theorem seqAction_border (q : SeqStep) (s : State) : (seqAction q s).border = s.border := by
  cases q <;> simp [seqAction, sendResolution, sendPanelSet, sendPowerSet, sendPllCtrl, sendTempEn, sendVcomDi,
    sendTconSet, sendDataMode, sendPwrSave, sendPoffSeq, sendBuffer, sendPartWindow, sendPartIn, sendRegion, sendPowerOn,
    sendRefresh, sendPowerOff, sendPartOut]
  all_goals (split <;> simp)
@[simp] theorem seqAction_pcount (q : SeqStep) (s : State) : (seqAction q s).pcount = s.pcount := by
  cases q <;> simp [seqAction, sendResolution, sendPanelSet, sendPowerSet, sendPllCtrl, sendTempEn, sendVcomDi,
    sendTconSet, sendDataMode, sendPwrSave, sendPoffSeq, sendBuffer, sendPartWindow, sendPartIn, sendRegion, sendPowerOn,
    sendRefresh, sendPowerOff, sendPartOut]
  all_goals (split <;> simp)
@[simp] theorem seqAction_lfrt (q : SeqStep) (s : State) : (seqAction q s).lfrt = s.lfrt := by
  cases q <;> simp [seqAction, sendResolution, sendPanelSet, sendPowerSet, sendPllCtrl, sendTempEn, sendVcomDi,
    sendTconSet, sendDataMode, sendPwrSave, sendPoffSeq, sendBuffer, sendPartWindow, sendPartIn, sendRegion, sendPowerOn,
    sendRefresh, sendPowerOff, sendPartOut]
  all_goals (split <;> simp)
@[simp] theorem seqAction_emu (q : SeqStep) (s : State) : (seqAction q s).emu = s.emu := by
  cases q <;> simp [seqAction, sendResolution, sendPanelSet, sendPowerSet, sendPllCtrl, sendTempEn, sendVcomDi,
    sendTconSet, sendDataMode, sendPwrSave, sendPoffSeq, sendBuffer, sendPartWindow, sendPartIn, sendRegion, sendPowerOn,
    sendRefresh, sendPowerOff, sendPartOut]
  all_goals (split <;> simp)
@[simp] theorem seqAction_seq (q : SeqStep) (s : State) : (seqAction q s).seq = s.seq := by
  cases q <;> simp [seqAction, sendResolution, sendPanelSet, sendPowerSet, sendPllCtrl, sendTempEn, sendVcomDi,
    sendTconSet, sendDataMode, sendPwrSave, sendPoffSeq, sendBuffer, sendPartWindow, sendPartIn, sendRegion, sendPowerOn,
    sendRefresh, sendPowerOff, sendPartOut]
  all_goals (split <;> simp)
@[simp] theorem seqAction_active (q : SeqStep) (s : State) : (seqAction q s).active = s.active := by
  cases q <;> simp [seqAction, sendResolution, sendPanelSet, sendPowerSet, sendPllCtrl, sendTempEn, sendVcomDi,
    sendTconSet, sendDataMode, sendPwrSave, sendPoffSeq, sendBuffer, sendPartWindow, sendPartIn, sendRegion, sendPowerOn,
    sendRefresh, sendPowerOff, sendPartOut]
  all_goals (split <;> simp)
@[simp] theorem seqAction_host (q : SeqStep) (s : State) : (seqAction q s).host = s.host := by
  cases q <;> simp [seqAction, sendResolution, sendPanelSet, sendPowerSet, sendPllCtrl, sendTempEn, sendVcomDi,
    sendTconSet, sendDataMode, sendPwrSave, sendPoffSeq, sendBuffer, sendPartWindow, sendPartIn, sendRegion, sendPowerOn,
    sendRefresh, sendPowerOff, sendPartOut]
  all_goals (split <;> simp)
@[simp] theorem seqAction_result (q : SeqStep) (s : State) : (seqAction q s).result = s.result := by
  cases q <;> simp [seqAction, sendResolution, sendPanelSet, sendPowerSet, sendPllCtrl, sendTempEn, sendVcomDi,
    sendTconSet, sendDataMode, sendPwrSave, sendPoffSeq, sendBuffer, sendPartWindow, sendPartIn, sendRegion, sendPowerOn,
    sendRefresh, sendPowerOff, sendPartOut]
  all_goals (split <;> simp)
@[simp] theorem seqAction_clk (q : SeqStep) (s : State) : (seqAction q s).env.clk = s.env.clk := by
  cases q <;> simp [seqAction, sendResolution, sendPanelSet, sendPowerSet, sendPllCtrl, sendTempEn, sendVcomDi,
    sendTconSet, sendDataMode, sendPwrSave, sendPoffSeq, sendBuffer, sendPartWindow, sendPartIn, sendRegion, sendPowerOn,
    sendRefresh, sendPowerOff, sendPartOut]
  all_goals (split <;> simp)

/-! ### advanceSeq -/

@[simp] theorem advanceSeq_buf (s : State) : (advanceSeq s).buf = s.buf := by
  unfold advanceSeq; split <;> rfl
@[simp] theorem advanceSeq_border (s : State) : (advanceSeq s).border = s.border := by
  unfold advanceSeq; split <;> rfl
@[simp] theorem advanceSeq_pcount (s : State) : (advanceSeq s).pcount = s.pcount := by
  unfold advanceSeq; split <;> rfl
@[simp] theorem advanceSeq_lfrt (s : State) : (advanceSeq s).lfrt = s.lfrt := by
  unfold advanceSeq; split <;> rfl
@[simp] theorem advanceSeq_pstate (s : State) : (advanceSeq s).pstate = s.pstate := by
  unfold advanceSeq; split <;> rfl
@[simp] theorem advanceSeq_emu (s : State) : (advanceSeq s).emu = s.emu := by
  unfold advanceSeq; split <;> rfl
@[simp] theorem advanceSeq_host (s : State) : (advanceSeq s).host = s.host := by
  unfold advanceSeq; split <;> rfl
@[simp] theorem advanceSeq_trace (s : State) : (advanceSeq s).trace = s.trace := by
  unfold advanceSeq; split <;> rfl
@[simp] theorem advanceSeq_env (s : State) : (advanceSeq s).env = (tick s).env := by
  unfold advanceSeq; split <;> rfl
@[simp] theorem advanceSeq_seq (s : State) : (advanceSeq s).seq = following s.seq (sequenceOf s.active) := by
  unfold advanceSeq; split <;> simp_all

end Sys2Proof.Machine
end

