-- ==== Sys2Proof/Laws/Sequence.lean ====
section
/-! SUPPORT. What a sequencer step does, said once: the events it adds, the PSTATE it leaves, how SEQ advances; what a whole
sequence keeps; and that a sequence is the single steps one after another (spec/42_panel_sequencer.md R164 to
R170). -/

namespace Sys2Proof.Machine

open Sys2Proof.Safety

/-- The bytes DATA_START sends at step P3. -/
def stagedBytes (s : State) : List Byte :=
  match s.active with
  | .regionUpdate x y w h => regionBytes s.buf x.toNat y.toNat w.toNat h.toNat s.env.pad
  | .idle | .initialise | .fullUpdate => s.rbuf

/-- The events of a sequencer step on the real backend. -/
def actionEvents (q : SeqStep) (s : State) : List Event :=
  match q with
  | .none => []
  | .i0Reset => [.rst]
  | .i1Resolution => stepEvents Config.cmdResolution Config.payResolution
  | .i2PanelSet => stepEvents Config.cmdPanelSet Config.payPanelSet
  | .i3PowerSet => stepEvents Config.cmdPowerSet Config.payPowerSet
  | .i4PllCtrl => stepEvents Config.cmdPllCtrl Config.payPllCtrl
  | .i5TempEn => stepEvents Config.cmdTempEn Config.payTempEn
  | .i6VcomDi => stepEvents Config.cmdVcomDi (Config.cdiPayload s.border)
  | .i7TconSet => stepEvents Config.cmdTconSet Config.payTconSet
  | .i8DataMode => stepEvents Config.cmdDataMode Config.payDataMode
  | .i9PwrSave => stepEvents Config.cmdPwrSave Config.payPwrSave
  | .i10PoffSeq => stepEvents Config.cmdPoffSeq Config.payPoffSeq
  | .f0Data => stepEvents Config.cmdDataStart (memDump s.buf)
  | .p1Window => stepEvents Config.cmdPartWindow (windowOf s.active)
  | .p2PartIn => stepEvents Config.cmdPartIn []
  | .p3Data => stepEvents Config.cmdDataStart (stagedBytes s)
  | .t1PowerOn => stepEvents Config.cmdPowerOn []
  | .t2Settle => [.dly Config.settleMs]
  | .t3Refresh => stepEvents Config.cmdRefresh []
  | .t4Wait => waitEvents s.env.ready
  | .t5PowerOff => stepEvents Config.cmdPowerOff []
  | .t6Settle => [.dly Config.settleMs]
  | .p4PartOut => stepEvents Config.cmdPartOut []

/-- The PSTATE a sequencer step leaves (R163). -/
def actionPhase (q : SeqStep) (p : PState) : PState :=
  match q with
  | .i10PoffSeq => .configured
  | .t2Settle | .t4Wait => .idle
  | .t3Refresh => .busy
  | .t6Settle => .poweredOff
  | .none | .i0Reset | .i1Resolution | .i2PanelSet | .i3PowerSet | .i4PllCtrl | .i5TempEn | .i6VcomDi
  | .i7TconSet | .i8DataMode | .i9PwrSave | .f0Data | .p1Window | .p2PartIn | .p3Data | .t1PowerOn
  | .t5PowerOff | .p4PartOut => p

theorem sendRegion_trace (s : State) : (sendRegion s).trace =
    if s.emu then s.trace else s.trace ++ stepEvents Config.cmdDataStart (stagedBytes s) := by
  cases h : s.active <;> simp [sendRegion, stagedBytes, h]

theorem sendRegion_pstate (s : State) : (sendRegion s).pstate = s.pstate := by
  cases h : s.active <;> simp [sendRegion, h]

theorem sendRegion_ready (s : State) : (sendRegion s).env.ready = s.env.ready := by
  cases h : s.active <;> simp [sendRegion, h]

/-- The events a sequencer step adds (R161 to R169). -/
theorem seqAction_trace (q : SeqStep) (s : State) :
    (seqAction q s).trace = if s.emu then s.trace else s.trace ++ actionEvents q s := by
  cases q <;> simp [seqAction, actionEvents, sendResolution, sendPanelSet, sendPowerSet, sendPllCtrl, sendTempEn,
    sendVcomDi, sendTconSet, sendDataMode, sendPwrSave, sendPoffSeq, sendBuffer, sendPartWindow, sendPartIn,
    sendRegion_trace, sendPowerOn, sendRefresh, sendPowerOff, sendPartOut]

/-- The PSTATE a sequencer step leaves (R163). -/
theorem seqAction_pstate (q : SeqStep) (s : State) : (seqAction q s).pstate = actionPhase q s.pstate := by
  cases q <;> simp [seqAction, actionPhase, sendResolution, sendPanelSet, sendPowerSet, sendPllCtrl, sendTempEn,
    sendVcomDi, sendTconSet, sendDataMode, sendPwrSave, sendPoffSeq, sendBuffer, sendPartWindow, sendPartIn,
    sendRegion_pstate, sendPowerOn, sendRefresh, sendPowerOff, sendPartOut]

/-- Only step P3 stages bytes. -/
theorem seqAction_rbuf {q : SeqStep} (hq : q ≠ .p3Data) (s : State) : (seqAction q s).rbuf = s.rbuf := by
  cases q <;> first
    | exact absurd rfl hq
    | simp [seqAction, sendResolution, sendPanelSet, sendPowerSet, sendPllCtrl, sendTempEn, sendVcomDi, sendTconSet,
        sendDataMode, sendPwrSave, sendPoffSeq, sendBuffer, sendPartWindow, sendPartIn, sendPowerOn, sendRefresh,
        sendPowerOff, sendPartOut]

theorem seqAction_p3_rbuf (s : State) : (seqAction .p3Data s).rbuf = stagedBytes s := by
  cases h : s.active <;> simp [seqAction, sendRegion, stagedBytes, h]

/-- Only step T4 draws an answer. -/
theorem seqAction_ready {q : SeqStep} (hq : q ≠ .t4Wait) (s : State) :
    (seqAction q s).env.ready = s.env.ready := by
  cases q <;> first
    | exact absurd rfl hq
    | simp [seqAction, sendResolution, sendPanelSet, sendPowerSet, sendPllCtrl, sendTempEn, sendVcomDi, sendTconSet,
        sendDataMode, sendPwrSave, sendPoffSeq, sendBuffer, sendPartWindow, sendPartIn, sendPowerOn, sendRefresh,
        sendPowerOff, sendPartOut, sendRegion_ready]

/-- Only step P3 draws a spare nibble. -/
theorem seqAction_pad {q : SeqStep} (hq : q ≠ .p3Data) (s : State) : (seqAction q s).env.pad = s.env.pad := by
  cases q <;> first
    | exact absurd rfl hq
    | simp [seqAction, sendResolution, sendPanelSet, sendPowerSet, sendPllCtrl, sendTempEn, sendVcomDi, sendTconSet,
        sendDataMode, sendPwrSave, sendPoffSeq, sendBuffer, sendPartWindow, sendPartIn, sendPowerOn, sendRefresh,
        sendPowerOff, sendPartOut, settle, emit, sendStep, busyWait]
  split <;> rfl

/-! ### How SEQ advances -/

/-- Not the last step of the table: SEQ goes on (R27). -/
theorem advanceSeq_next {s : State} {q : SeqStep} (h : following s.seq (sequenceOf s.active) = q)
    (hq : q ≠ .none) : advanceSeq s = tick (setSeq q s) := by
  unfold advanceSeq
  split
  · next hn => exact absurd (h.symm.trans hn) hq
  · rw [h]

/-- The last step of the table: the operation returns (R27). -/
theorem advanceSeq_last {s : State} (h : following s.seq (sequenceOf s.active) = .none) :
    advanceSeq s = complete okResult s := by
  unfold advanceSeq
  rw [h]

theorem microStep_eq (s : State) : microStep s = advanceSeq (seqAction s.seq s) := rfl

/-- One step of a sequence from where SEQ stands is `microStep`. -/
theorem runSteps_cons {s : State} {q : SeqStep} (h : s.seq = q) (rest : List SeqStep) :
    runSteps (q :: rest) s = runSteps rest (microStep s) := by
  subst h; rfl

/-! ### What a whole sequence keeps -/

@[simp] theorem runSteps_buf (qs : List SeqStep) (s : State) : (runSteps qs s).buf = s.buf := by
  induction qs generalizing s with
  | nil => rfl
  | cons q rest ih => simp [runSteps, ih]

@[simp] theorem runSteps_border (qs : List SeqStep) (s : State) : (runSteps qs s).border = s.border := by
  induction qs generalizing s with
  | nil => rfl
  | cons q rest ih => simp [runSteps, ih]

@[simp] theorem runSteps_pcount (qs : List SeqStep) (s : State) : (runSteps qs s).pcount = s.pcount := by
  induction qs generalizing s with
  | nil => rfl
  | cons q rest ih => simp [runSteps, ih]

@[simp] theorem runSteps_lfrt (qs : List SeqStep) (s : State) : (runSteps qs s).lfrt = s.lfrt := by
  induction qs generalizing s with
  | nil => rfl
  | cons q rest ih => simp [runSteps, ih]

@[simp] theorem runSteps_emu (qs : List SeqStep) (s : State) : (runSteps qs s).emu = s.emu := by
  induction qs generalizing s with
  | nil => rfl
  | cons q rest ih => simp [runSteps, ih]

@[simp] theorem runSteps_host (qs : List SeqStep) (s : State) : (runSteps qs s).host = s.host := by
  induction qs generalizing s with
  | nil => rfl
  | cons q rest ih => simp [runSteps, ih]

/-- The PSTATE a sequence leaves is the fold of its steps' (R163). -/
theorem runSteps_pstate (qs : List SeqStep) (s : State) :
    (runSteps qs s).pstate = qs.foldl (fun p q => actionPhase q p) s.pstate := by
  induction qs generalizing s with
  | nil => rfl
  | cons q rest ih => simp [runSteps, ih, seqAction_pstate]

/-- The clock does not go back over a sequence (R11). -/
theorem runSteps_clk (qs : List SeqStep) (s : State) : s.env.clk ≤ (runSteps qs s).env.clk := by
  induction qs generalizing s with
  | nil => exact le_rfl
  | cons q rest ih =>
    refine le_trans ?_ (ih _)
    simp

/-! ### Whole sequences -/

/-- A step that is not the last of its table, in a sequence. -/
theorem runSteps_next {s : State} {q q' : SeqStep} (rest : List SeqStep)
    (h : following q (sequenceOf s.active) = q') (hq : q' ≠ .none) :
    runSteps (q :: rest) s = runSteps rest (tick (setSeq q' (seqAction q (setSeq q s)))) := by
  rw [runSteps, advanceSeq_next (q := q') (by simpa using h) hq]

/-- The last step of its table, in a sequence. -/
theorem runSteps_last {s : State} {q : SeqStep} (h : following q (sequenceOf s.active) = .none) :
    runSteps [q] s = complete okResult (seqAction q (setSeq q s)) := by
  rw [runSteps, advanceSeq_last (by simpa using h), runSteps]

/-- No step stands twice in a table. -/
theorem sequenceOf_nodup (a : Active) : (sequenceOf a).Nodup := by
  cases a <;> simp [sequenceOf, initSteps, tailSteps]

/-- NONE is no step of a table. -/
theorem none_notMem_sequenceOf (a : Active) : SeqStep.none ∉ sequenceOf a := by
  cases a <;> simp [sequenceOf, initSteps, tailSteps]

/-- The step after `q` is the one that stands next to it in the table (R27). -/
theorem following_append {pre rest : List SeqStep} {q : SeqStep} (h : (pre ++ q :: rest).Nodup) :
    following q (pre ++ q :: rest) = rest.headD .none := by
  induction pre with
  | nil => simp [following]
  | cons a pre ih =>
    have h' := List.nodup_cons.1 h
    have ha : a ≠ q := by rintro rfl; exact h'.1 (by simp)
    simp only [List.cons_append, following, if_neg ha]
    exact ih h'.2

@[simp] theorem actionEvents_setSeq (q r : SeqStep) (s : State) :
    actionEvents q (setSeq r s) = actionEvents q s := by
  cases q <;> rfl

/-- What a later step will send does not depend on whether another step was taken before it (R63, R164). -/
theorem actionEvents_stable {q q' r r' : SeqStep} (hq : q' ≠ q) (s : State) :
    actionEvents q' (tick (setSeq r' (seqAction q (setSeq r s)))) = actionEvents q' s := by
  cases q' <;> simp only [actionEvents, tick_border, tick_buf, tick_active, setSeq_border, setSeq_buf, setSeq_active,
    seqAction_border, seqAction_buf, seqAction_active]
  · unfold stagedBytes
    simp [seqAction_rbuf hq.symm, seqAction_pad hq.symm]
  · simp [seqAction_ready hq.symm]

/-- The events of the steps of a table from `qs` on. -/
def eventsOf (qs : List SeqStep) (s : State) : List Event := qs.flatMap (fun q => actionEvents q s)

theorem eventsOf_stable {q r r' : SeqStep} {qs : List SeqStep} (hq : q ∉ qs) (s : State) :
    eventsOf qs (tick (setSeq r' (seqAction q (setSeq r s)))) = eventsOf qs s := by
  induction qs with
  | nil => rfl
  | cons a rest ih =>
    have ha : a ≠ q := by rintro rfl; exact hq (by simp)
    have hr : q ∉ rest := fun h => hq (by simp [h])
    simp only [eventsOf, List.flatMap_cons] at ih ⊢
    rw [actionEvents_stable ha, ih hr]

/-- The rest of a table, run to its end: the operation returns OK, SEQ is NONE, nothing is staged, and the trace
has the events of its steps in table order, none on the emulated backend (R162, R170, R171). -/
theorem runSteps_suffix {s : State} {pre qs : List SeqStep} (h : sequenceOf s.active = pre ++ qs) (hne : qs ≠ []) :
    (runSteps qs s).seq = .none ∧ (runSteps qs s).active = .idle ∧ (runSteps qs s).rbuf = []
      ∧ (runSteps qs s).result = some okResult
      ∧ (runSteps qs s).trace = if s.emu then s.trace else s.trace ++ eventsOf qs s := by
  induction qs generalizing s pre with
  | nil => exact absurd rfl hne
  | cons q rest ih =>
    have hnd := sequenceOf_nodup s.active
    rw [h] at hnd
    have hf : following q (sequenceOf s.active) = rest.headD .none := by rw [h, following_append hnd]
    cases rest with
    | nil =>
      rw [runSteps_last hf]
      simp [seqAction_trace, eventsOf, actionEvents_setSeq]
    | cons q' rest =>
      have hq' : q' ≠ .none := by
        rintro rfl
        exact none_notMem_sequenceOf s.active (by rw [h]; simp)
      have hq : q ∉ q' :: rest := by
        have := List.nodup_append.1 hnd
        exact (List.nodup_cons.1 this.2.1).1
      rw [runSteps_next _ hf hq']
      obtain ⟨h1, h2, h3, h4, h5⟩ :=
        ih (s := tick (setSeq q' (seqAction q (setSeq q s)))) (pre := pre ++ [q]) (by simpa using h) (by simp)
      refine ⟨h1, h2, h3, h4, h5.trans ?_⟩
      rw [eventsOf_stable hq]
      cases he : s.emu <;> simp [he, seqAction_trace, eventsOf, actionEvents_setSeq]

/-- The whole table of the operation in progress, run to its end. -/
theorem runSteps_whole {s : State} {a : Active} (h : s.active = a) (ha : a ≠ .idle) :
    (runSteps (sequenceOf a) s).seq = .none ∧ (runSteps (sequenceOf a) s).active = .idle
      ∧ (runSteps (sequenceOf a) s).rbuf = [] ∧ (runSteps (sequenceOf a) s).result = some okResult
      ∧ (runSteps (sequenceOf a) s).trace = if s.emu then s.trace else s.trace ++ eventsOf (sequenceOf a) s :=
  runSteps_suffix (pre := []) (by rw [h]; rfl) (by cases a <;> simp_all [sequenceOf, initSteps])

end Sys2Proof.Machine
end

