-- ==== Sys2Proof/Laws/Ops.lean ====
section
/-! SUPPORT. Each shared operation said once: what it answers, and what an answer tells of the state before
(spec/43_system.md R224, spec/60_exceptions.md R249, spec/42_panel_sequencer.md R170). -/

namespace Sys2Proof.Machine

open Sys2Proof.Safety

/-! ### Admission -/

theorem ifAdmitted_ready {s : State} (h : Ready s) (run : StepOutcome) : ifAdmitted s run = run := by
  simp [ifAdmitted, h.1, h.2]

theorem ifAdmitted_vacant {s : State} (h : Vacant s) (run : StepOutcome) : ifAdmitted s run = .refused .noContext := by
  simp [ifAdmitted, h.1, h.2]

theorem ifAdmitted_busy {s : State} (h : s.seq ≠ .none) (run : StepOutcome) :
    ifAdmitted s run = .refused .operationInProgress := by
  simp [ifAdmitted, h]

/-- If an admitted operation answers a next state, the context was ready and the operation's own meaning gave it. -/
theorem ifAdmitted_next {s t : State} {run : StepOutcome} (h : ifAdmitted s run = .next t) : Ready s ∧ run = .next t := by
  unfold ifAdmitted at h
  split at h
  · cases h
  · split at h
    · cases h
    · next h1 h2 => exact ⟨⟨not_not.1 h1, h2⟩, h⟩

/-- Admission never faults. -/
theorem ifAdmitted_fault {s : State} {run : StepOutcome} {r : Fault} (h : ifAdmitted s run = .fault r) : run = .fault r := by
  unfold ifAdmitted at h
  split at h
  · cases h
  · split at h
    · cases h
    · exact h

/-! ### Returning and raising -/

/-- The clock does not go back over the return of an operation. -/
theorem complete_clk (r : Result) (s : State) : s.env.clk ≤ (complete r s).env.clk := by simp

/-- Raising an error is returning its status with no value and no bytes (R249). -/
theorem raise_eq (x : ErrorClass) (s : State) : raise x s = complete ⟨statusOf x, 0, []⟩ s := rfl

/-- An operation that wrote no port but its result has returned in the sense of `Returned`. -/
theorem complete_returned (r : Result) {s s0 : State} (hh : s.host = s0.host) (hc : s0.env.clk ≤ s.env.clk) :
    Returned s0 (complete r s) r := by
  refine ⟨rfl, rfl, rfl, rfl, by simpa using hh, hc.trans (complete_clk r s)⟩

/-- Returning changes no register and no byte of BUF. -/
theorem complete_sameRegisters (r : Result) (s : State) : SameRegisters s (complete r s) := by
  simp [SameRegisters]

/-! ### Panel commands -/

/-- If a panel command answers a next state, the sequencer was at its step. -/
theorem atStep_next {q : SeqStep} {name : String} {s sent t : State} (h : atStep q name s sent = .next t) :
    s.seq = q ∧ t = advanceSeq sent := by
  unfold atStep at h
  split at h
  · next hq => exact ⟨hq, by cases h; rfl⟩
  · cases h

theorem atStep_fault {q : SeqStep} {name : String} {s sent : State} {r : Fault} :
    atStep q name s sent ≠ .fault r := by
  unfold atStep
  split <;> simp

/-! ### Sequencer steps of the machine -/

/-- A panel command at the step SEQ names does what `microStep` does, unless it would read outside BUF. -/
theorem exec_commandAt {s : State} {i : Instr} (h : commandAt s.seq = some i)
    (hin : s.seq = .p3Data → stagedOutside s.active = false) : exec i s = .next (microStep s) := by
  cases hq : s.seq <;> rw [hq] at h <;> cases h <;>
    simp [exec, execResolution, execPanelSet, execPowerSet, execPllCtrl, execTempEn, execVcomDi, execTconSet,
      execDataMode, execPwrSave, execPoffSeq, execDataStart, execPowerOn, execRefresh, execPowerOff, execPartWindow,
      execPartIn, execPartOut, atStep, hq, microStep, seqAction, hin]

/-- While a sequence is in progress a step of the machine is `microStep`, unless it would read outside BUF. -/
theorem step_sequence {s : State} (h : s.seq ≠ .none)
    (hin : s.seq = .p3Data → stagedOutside s.active = false) : step s = .next (microStep s) := by
  unfold step fetch fetchSeq
  rw [if_neg h]
  cases hc : commandAt s.seq with
  | none => rfl
  | some i => exact exec_commandAt hc hin

end Sys2Proof.Machine
end

