-- ==== Sys2Proof/Laws/Exec.lean ====
section
/-! SUPPORT. What each host operation answers, case by case, as an equation on `exec`: later proofs cite these and unfold
no meaning. -/

namespace Sys2Proof.Machine

open Sys2Proof.Safety

/-! ### Pixel buffer (R111 to R114) -/

theorem exec_setPixel_in {s : State} {x y : Coord} (c : Byte) (hr : Ready s) (hx : x.toNat < 600)
    (hy : y.toNat < 448) :
    exec (.setPixel x y c) s
      = .next (complete okResult (setBuf (nibWrite s.buf (pixelIndex x.toNat y.toNat) (lo4 c)) (beginOp s))) := by
  rw [exec, execSetPixel, ifAdmitted_ready hr, if_pos ((inRange_iff _ _).2 ⟨hx, hy⟩)]

theorem exec_setPixel_out {s : State} {x y : Coord} (c : Byte) (hr : Ready s)
    (h : 600 ≤ x.toNat ∨ 448 ≤ y.toNat) :
    exec (.setPixel x y c) s = .next (complete okResult (beginOp s)) := by
  rw [exec, execSetPixel, ifAdmitted_ready hr, if_neg (by rw [inRange_iff]; omega)]
  rfl

theorem exec_getPixel {s : State} (x y : Coord) (hr : Ready s) :
    exec (.getPixel x y) s
      = .next (complete ⟨.ok, if x.toNat < 600 ∧ y.toNat < 448
          then BitVec.ofNat 32 (pixel s x.toNat y.toNat).toNat else 0, []⟩ (beginOp s)) := by
  rw [exec, execGetPixel, ifAdmitted_ready hr]
  by_cases h : inRange x.toNat y.toNat = true
  · have hz (v : Nibble) : v.zeroExtend 32 = BitVec.ofNat 32 v.toNat := by
      apply BitVec.eq_of_toNat_eq
      have := v.isLt
      simp
    rw [if_pos h, if_pos ((inRange_iff _ _).1 h), hz]; rfl
  · rw [if_neg h, if_neg (fun h' => h ((inRange_iff _ _).2 h'))]; rfl

theorem exec_clear {s : State} (c : Byte) (hr : Ready s) :
    exec (.clear c) s = .next (complete okResult (setBuf (memFill (byteOf (lo4 c) (lo4 c))) (beginOp s))) := by
  rw [exec, execClear, ifAdmitted_ready hr]

theorem exec_extractRegion_in {s : State} {x y w h : Coord} (hr : Ready s) (hw : 1 ≤ w.toNat) (hh : 1 ≤ h.toNat)
    (hx : x.toNat + w.toNat ≤ 600) (hy : y.toNat + h.toNat ≤ 448) :
    exec (.extractRegion x y w h) s
      = .next (complete ⟨.ok, BitVec.ofNat 32 ((w.toNat * h.toNat + 1) / 2),
          regionBytes s.buf x.toNat y.toNat w.toNat h.toNat s.env.pad⟩ (stageRegion x y w h (beginOp s))) := by
  rw [exec, execExtractRegion, ifAdmitted_ready hr, zeroExtent_false hw hh, exceedsBounds_false hx hy, if_neg (by decide),
    if_neg (by decide)]
  simp only [stageRegion_rbuf]
  rfl

theorem exec_extractRegion_out {s : State} {x y w h : Coord} (hr : Ready s) (hw : 1 ≤ w.toNat)
    (hh : 1 ≤ h.toNat) (ho : 600 < x.toNat + w.toNat ∨ 448 < y.toNat + h.toNat) :
    exec (.extractRegion x y w h) s = .next (complete ⟨.errBounds, 0, []⟩ (beginOp s)) := by
  rw [exec, execExtractRegion, ifAdmitted_ready hr, zeroExtent_false hw hh, (exceedsBounds_iff ..).2 ho,
    if_neg (by decide), if_pos rfl]
  rfl

/-! ### Refresh policy (R143, R144) -/

theorem shouldFull_iff (p : BitVec 32) (l t : Nat) :
    shouldFull p l t = true ↔ 5 ≤ p.toNat ∨ 180 * Config.tickHz ≤ t - l := by
  simp only [shouldFull, Bool.or_eq_true, decide_eq_true_eq]
  exact Iff.rfl

theorem exec_partialCount {s : State} (hr : Ready s) :
    exec .partialCount s = .next (complete ⟨.ok, s.pcount, []⟩ (beginOp s)) := by
  rw [exec, execPartialCount, ifAdmitted_ready hr]

theorem exec_shouldFullRefresh {s : State} (hr : Ready s) :
    exec .shouldFullRefresh s
      = .next (complete ⟨.ok, if 5 ≤ s.pcount.toNat ∨ 180 * Config.tickHz ≤ s.env.clk + s.env.advance - s.lfrt
          then 1 else 0, []⟩ (tick (beginOp s))) := by
  rw [exec, execShouldFullRefresh, ifAdmitted_ready hr]
  simp only [shouldFull_iff]
  rfl

/-! ### Updates (R167 to R169) -/

theorem exec_fullUpdate {s : State} (hr : Ready s) :
    exec .fullUpdate s = .next (runSteps (sequenceOf .fullUpdate) (startFullUpdate s)) := by
  rw [exec, execFullUpdate, ifAdmitted_ready hr]

theorem exec_regionUpdate_in {s : State} {x y w h : Coord} (hr : Ready s) (hw : 1 ≤ w.toNat) (hh : 1 ≤ h.toNat)
    (hx : x.toNat + w.toNat ≤ 600) (hy : y.toNat + h.toNat ≤ 448) (hc : s.pcount.toNat < 2 ^ 32 - 1) :
    exec (.regionUpdate x y w h) s
      = .next (runSteps (sequenceOf (.regionUpdate x y w h)) (startRegionUpdate x y w h s)) := by
  have hm : countAtMax s = false := by simp only [countAtMax, beq_eq_false_iff_ne]; omega
  rw [exec, execRegionUpdate, ifAdmitted_ready hr, zeroExtent_false hw hh, exceedsBounds_false hx hy, hm,
    if_neg (by decide), if_neg (by decide), if_neg (by decide)]

theorem exec_regionUpdate_out {s : State} {x y w h : Coord} (hr : Ready s) (hw : 1 ≤ w.toNat) (hh : 1 ≤ h.toNat)
    (ho : 600 < x.toNat + w.toNat ∨ 448 < y.toNat + h.toNat) :
    exec (.regionUpdate x y w h) s = .next (complete ⟨.errBounds, 0, []⟩ (beginOp s)) := by
  rw [exec, execRegionUpdate, ifAdmitted_ready hr, zeroExtent_false hw hh, (exceedsBounds_iff ..).2 ho,
    if_neg (by decide), if_pos rfl]
  rfl

/-! ### System operations (R220 to R222) -/

theorem exec_initialise_ok {s : State} {e : Bool} (hv : Vacant s) (hf : initFault e s.env.fault = .none) :
    exec (.initialise e) s
      = .next (runSteps (sequenceOf .initialise) (startInitialise e (redrawFault (beginOp s)))) := by
  rw [exec, execInitialise, if_neg (by simp [hv.1]), if_neg (by simp [hv.2])]
  simp [initialiseWith, hf]

theorem exec_initialise_failed {s : State} {e : Bool} (hv : Vacant s) (hf : initFault e s.env.fault ≠ .none) :
    exec (.initialise e) s = .next (complete ⟨.failed, 0, []⟩ (redrawFault (beginOp s))) := by
  rw [exec, execInitialise, if_neg (by simp [hv.1]), if_neg (by simp [hv.2])]
  unfold initialiseWith
  split
  · rfl
  · rfl
  · next h => exact absurd h hf

theorem exec_destroy {s : State} (hr : Ready s) :
    exec .destroy s = .next (complete okResult (setPstate .uninitialized (forget (beginOp s)))) := by
  rw [exec, execDestroy, ifAdmitted_ready hr]

theorem exec_setBorder {s : State} {c : Byte} (hr : Ready s) (hc : c.toNat ≤ 7) :
    exec (.setBorder c) s = .next (complete okResult (setBorder (c.extractLsb' 0 3) (beginOp s))) := by
  rw [exec, execSetBorder, ifAdmitted_ready hr, if_neg (by omega)]

end Sys2Proof.Machine
end

