-- ==== Sys2Proof/Laws/Inversion.lean ====
section
/-! SUPPORT. What a next state tells: for each instruction, the states it can have come from and the state it is, so that a
claim over all instructions unfolds no meaning. The equations have the next state on their right, where `rfl` patterns
replace it without evaluating the other side. -/

namespace Sys2Proof.Machine

open Sys2Proof.Safety

theorem next_inj {s t : State} (h : (Host.Outcome.next s : StepOutcome) = .next t) : s = t := by
  injection h

theorem execSetPixel_inv {s t : State} {x y : Coord} {c : Byte} (h : exec (.setPixel x y c) s = .next t) :
    Ready s ∧ ((x.toNat < 600 ∧ y.toNat < 448
        ∧ complete okResult (setBuf (nibWrite s.buf (pixelIndex x.toNat y.toNat) (lo4 c)) (beginOp s)) = t)
      ∨ complete okResult (beginOp s) = t) := by
  have hr : Ready s := (ifAdmitted_next h).1
  refine ⟨hr, ?_⟩
  by_cases hb : x.toNat < 600 ∧ y.toNat < 448
  · rw [exec_setPixel_in c hr hb.1 hb.2] at h
    exact .inl ⟨hb.1, hb.2, next_inj h⟩
  · rw [exec_setPixel_out c hr (by omega)] at h
    exact .inr (next_inj h)

theorem execGetPixel_inv {s t : State} {x y : Coord} (h : exec (.getPixel x y) s = .next t) :
    Ready s ∧ ∃ r, complete r (beginOp s) = t := by
  have hr : Ready s := (ifAdmitted_next h).1
  rw [exec_getPixel x y hr] at h
  exact ⟨hr, _, next_inj h⟩

theorem execClear_inv {s t : State} {c : Byte} (h : exec (.clear c) s = .next t) :
    Ready s ∧ complete okResult (setBuf (memFill (byteOf (lo4 c) (lo4 c))) (beginOp s)) = t := by
  have hr : Ready s := (ifAdmitted_next h).1
  rw [exec_clear c hr] at h
  exact ⟨hr, next_inj h⟩

theorem execExtractRegion_inv {s t : State} {x y w h : Coord} (he : exec (.extractRegion x y w h) s = .next t) :
    Ready s ∧ ∃ r, complete r (beginOp s) = t ∨ complete r (stageRegion x y w h (beginOp s)) = t := by
  obtain ⟨hr, he⟩ := ifAdmitted_next he
  refine ⟨hr, ?_⟩
  split at he
  · cases he
  · split at he
    · exact ⟨_, .inl (next_inj he)⟩
    · exact ⟨_, .inr (next_inj he)⟩

theorem execPartialCount_inv {s t : State} (h : exec .partialCount s = .next t) :
    Ready s ∧ complete ⟨.ok, s.pcount, []⟩ (beginOp s) = t := by
  have hr : Ready s := (ifAdmitted_next h).1
  rw [exec_partialCount hr] at h
  exact ⟨hr, next_inj h⟩

theorem execShouldFullRefresh_inv {s t : State} (h : exec .shouldFullRefresh s = .next t) :
    Ready s ∧ ∃ r, complete r (tick (beginOp s)) = t := by
  have hr : Ready s := (ifAdmitted_next h).1
  rw [exec_shouldFullRefresh hr] at h
  exact ⟨hr, _, next_inj h⟩

theorem execFullUpdate_inv {s t : State} (h : exec .fullUpdate s = .next t) :
    Ready s ∧ runSteps (sequenceOf .fullUpdate) (startFullUpdate s) = t := by
  have hr : Ready s := (ifAdmitted_next h).1
  rw [exec_fullUpdate hr] at h
  exact ⟨hr, next_inj h⟩

/-- A region update either reports the bounds error or has passed its checks, the count below its maximum. -/
theorem execRegionUpdate_inv {s t : State} {x y w h : Coord} (he : exec (.regionUpdate x y w h) s = .next t) :
    Ready s ∧ zeroExtent w h = false
      ∧ (complete ⟨.errBounds, 0, []⟩ (beginOp s) = t
        ∨ exceedsBounds x y w h = false ∧ s.pcount.toNat < 2 ^ 32 - 1
          ∧ runSteps (sequenceOf (.regionUpdate x y w h)) (startRegionUpdate x y w h s) = t) := by
  obtain ⟨hr, he⟩ := ifAdmitted_next he
  refine ⟨hr, ?_⟩
  split at he
  · cases he
  · next hz =>
    refine ⟨by simpa using hz, ?_⟩
    split at he
    · exact .inl (next_inj he)
    · next hb =>
      split at he
      · cases he
      · next hc =>
        refine .inr ⟨by simpa using hb, ?_, next_inj he⟩
        have := s.pcount.isLt
        simp only [countAtMax, beq_iff_eq] at hc
        omega

/-- initialize either has failed or created the context. -/
theorem execInitialise_inv {s t : State} {e : Bool} (h : exec (.initialise e) s = .next t) :
    Vacant s ∧ (initFault e s.env.fault ≠ .none ∧ complete ⟨.failed, 0, []⟩ (redrawFault (beginOp s)) = t
      ∨ initFault e s.env.fault = .none
        ∧ runSteps (sequenceOf .initialise) (startInitialise e (redrawFault (beginOp s))) = t) := by
  have hv : Vacant s := by
    rw [exec, execInitialise] at h
    split at h
    · cases h
    · split at h
      · cases h
      · next h1 h2 => exact ⟨not_not.1 h1, not_not.1 h2⟩
  refine ⟨hv, ?_⟩
  by_cases hf : initFault e s.env.fault = .none
  · rw [exec_initialise_ok hv hf] at h
    exact .inr ⟨hf, next_inj h⟩
  · rw [exec_initialise_failed hv hf] at h
    exact .inl ⟨hf, next_inj h⟩

theorem execDestroy_inv {s t : State} (h : exec .destroy s = .next t) :
    Ready s ∧ complete okResult (setPstate .uninitialized (forget (beginOp s))) = t := by
  have hr : Ready s := (ifAdmitted_next h).1
  rw [exec_destroy hr] at h
  exact ⟨hr, next_inj h⟩

theorem execSetBorder_inv {s t : State} {c : Byte} (h : exec (.setBorder c) s = .next t) :
    Ready s ∧ complete okResult (setBorder (c.extractLsb' 0 3) (beginOp s)) = t := by
  obtain ⟨hr, h⟩ := ifAdmitted_next h
  refine ⟨hr, ?_⟩
  split at h
  · cases h
  · exact next_inj h

/-- A panel command that answers a next state stands at a step of the sequencer that sends it, and has done that
step. -/
theorem execPanel_inv {i : Instr} {s t : State} (hi : (commandByte i).isSome = true) (h : exec i s = .next t) :
    commandAt s.seq = some i ∧ (s.seq = .p3Data → stagedOutside s.active = false) ∧ microStep s = t := by
  have key (hc : commandAt s.seq = some i) (hin : s.seq = .p3Data → stagedOutside s.active = false) :
      commandAt s.seq = some i ∧ (s.seq = .p3Data → stagedOutside s.active = false) ∧ microStep s = t := by
    refine ⟨hc, hin, ?_⟩
    rw [exec_commandAt hc hin] at h
    exact next_inj h
  cases i <;> simp only [commandByte, Option.isSome_none, Bool.false_eq_true] at hi
  case dataStart =>
    rw [exec, execDataStart] at h
    split at h
    · next hq => exact key (by rw [hq]; rfl) (by simp [hq])
    · split at h
      · cases h
      · next hn =>
        have hq := (atStep_next h).1
        exact key (by rw [hq]; rfl) (by intro _; simpa [hq] using hn)
  all_goals
    have hq := (atStep_next h).1
    exact key (by rw [hq]; rfl) (by simp [hq])

end Sys2Proof.Machine
end

