-- ==== Sys2Proof/Laws/PerInstr.lean ====
section
/-! SUPPORT. The per-instruction family Opcode: what stands in the opcode field of a host operation's word (spec/30_encoding.md
R84), and that a panel command is among the commands its byte can stand for (R88). -/

namespace Sys2Proof.Laws.Opcode

/-- The opcode of R84, by mnemonic; a panel command has none. -/
def opcodeOf : Instr → Option (BitVec 8)
  | .initialise _ => some 0x00
  | .destroy => some 0x01
  | .clear _ => some 0x02
  | .setPixel _ _ _ => some 0x03
  | .getPixel _ _ => some 0x04
  | .setBorder _ => some 0x05
  | .fullUpdate => some 0x06
  | .regionUpdate _ _ _ _ => some 0x07
  | .exportImage _ => some 0x08
  | .shouldFullRefresh => some 0x09
  | .partialCount => some 0x0A
  | .extractRegion _ _ _ _ => some 0x0B
  | .resolution | .panelSet | .powerSet | .pllCtrl | .tempEn | .vcomDi | .tconSet => none
  | .dataMode | .pwrSave | .poffSeq | .dataStart | .powerOn | .refresh | .powerOff => none
  | .partWindow | .partIn | .partOut => none

/-- The opcode field of the instruction's word is its opcode, and a panel command is among those its byte can stand
for. -/
def Statement (i : Instr) : Prop :=
  (encode i).map fieldOp = opcodeOf i ∧ ∀ b, commandByte i = some b → i ∈ commandsOf b

theorem command_mem {i : Instr} {b : Byte} (hi : i ∈ panelCommands) (h : commandByte i = some b) :
    i ∈ commandsOf b := by
  simp [commandsOf, hi, h]

theorem initialise (e : Bool) : Statement (.initialise e) :=
  ⟨by simp [encode, opcodeOf], fun _ h => by cases h⟩
theorem destroy : Statement .destroy := ⟨by simp [encode, opcodeOf], fun _ h => by cases h⟩
theorem clear (c : Byte) : Statement (.clear c) := ⟨by simp [encode, opcodeOf], fun _ h => by cases h⟩
theorem setPixel (x y : Coord) (c : Byte) : Statement (.setPixel x y c) :=
  ⟨by simp [encode, opcodeOf], fun _ h => by cases h⟩
theorem getPixel (x y : Coord) : Statement (.getPixel x y) := ⟨by simp [encode, opcodeOf], fun _ h => by cases h⟩
theorem setBorder (c : Byte) : Statement (.setBorder c) := ⟨by simp [encode, opcodeOf], fun _ h => by cases h⟩
theorem fullUpdate : Statement .fullUpdate := ⟨by simp [encode, opcodeOf], fun _ h => by cases h⟩
theorem regionUpdate (x y w h : Coord) : Statement (.regionUpdate x y w h) :=
  ⟨by simp [encode, opcodeOf], fun _ h => by cases h⟩
theorem shouldFullRefresh : Statement .shouldFullRefresh := ⟨by simp [encode, opcodeOf], fun _ h => by cases h⟩
theorem partialCount : Statement .partialCount := ⟨by simp [encode, opcodeOf], fun _ h => by cases h⟩
theorem extractRegion (x y w h : Coord) : Statement (.extractRegion x y w h) :=
  ⟨by simp [encode, opcodeOf], fun _ h => by cases h⟩
theorem exportImage (rest : BitVec 64) : Statement (.exportImage rest) :=
  ⟨by simp only [encode, opcodeOf, Option.map_some, fieldOp_reserved], fun _ h => by cases h⟩
theorem resolution : Statement .resolution := ⟨rfl, fun _ h => command_mem (by simp [panelCommands]) h⟩
theorem panelSet : Statement .panelSet := ⟨rfl, fun _ h => command_mem (by simp [panelCommands]) h⟩
theorem powerSet : Statement .powerSet := ⟨rfl, fun _ h => command_mem (by simp [panelCommands]) h⟩
theorem pllCtrl : Statement .pllCtrl := ⟨rfl, fun _ h => command_mem (by simp [panelCommands]) h⟩
theorem tempEn : Statement .tempEn := ⟨rfl, fun _ h => command_mem (by simp [panelCommands]) h⟩
theorem vcomDi : Statement .vcomDi := ⟨rfl, fun _ h => command_mem (by simp [panelCommands]) h⟩
theorem tconSet : Statement .tconSet := ⟨rfl, fun _ h => command_mem (by simp [panelCommands]) h⟩
theorem dataMode : Statement .dataMode := ⟨rfl, fun _ h => command_mem (by simp [panelCommands]) h⟩
theorem pwrSave : Statement .pwrSave := ⟨rfl, fun _ h => command_mem (by simp [panelCommands]) h⟩
theorem poffSeq : Statement .poffSeq := ⟨rfl, fun _ h => command_mem (by simp [panelCommands]) h⟩
theorem dataStart : Statement .dataStart := ⟨rfl, fun _ h => command_mem (by simp [panelCommands]) h⟩
theorem powerOn : Statement .powerOn := ⟨rfl, fun _ h => command_mem (by simp [panelCommands]) h⟩
theorem refresh : Statement .refresh := ⟨rfl, fun _ h => command_mem (by simp [panelCommands]) h⟩
theorem powerOff : Statement .powerOff := ⟨rfl, fun _ h => command_mem (by simp [panelCommands]) h⟩
theorem partWindow : Statement .partWindow := ⟨rfl, fun _ h => command_mem (by simp [panelCommands]) h⟩
theorem partIn : Statement .partIn := ⟨rfl, fun _ h => command_mem (by simp [panelCommands]) h⟩
theorem partOut : Statement .partOut := ⟨rfl, fun _ h => command_mem (by simp [panelCommands]) h⟩

end Sys2Proof.Laws.Opcode
end

