-- ==== Sys2Proof/Laws/Trace.lean ====
section
/-! SUPPORT. The small lemmas of `coalesce` (spec/42_panel_sequencer.md R172). -/

namespace Sys2Proof.Safety

open Sys2Proof.Machine

@[simp] theorem joinDat_joinDat (bs cs : List Byte) (es : List Event) :
    joinDat bs (joinDat cs es) = joinDat (bs ++ cs) es := by
  cases es with
  | nil => simp [joinDat]
  | cons e es => cases e <;> simp [joinDat]

/-- What comes before does not change whether two traces coalesce to one. -/
theorem coalesce_append_congr {es fs : List Event} (h : coalesce es = coalesce fs) (pre : List Event) :
    coalesce (pre ++ es) = coalesce (pre ++ fs) := by
  induction pre with
  | nil => exact h
  | cons e pre ih => cases e <;> simp [coalesce, ih]

end Sys2Proof.Safety
end

