-- ==== Sys2Proof/WellFormed.lean ====
section
/-! DEFINITION. Which instructions the spec gives a meaning: the operand checks that refuse, the third point of
the order of checks in spec/60_exceptions.md R248, and the reserved opcode of R85. The widths of the operands
(R83) are in the types of `Instr`, so every term is encodable, a well-formed one or not. -/

namespace Sys2Proof

/-- A rectangle has an extent of at least one pixel each way (R89, R114, R169). -/
def Instr.extentOk (w h : Coord) : Bool := decide (1 ≤ w.toNat) && decide (1 ≤ h.toNat)

/-- An instruction to which the spec gives a meaning: no reserved opcode (R85), no border colour above 7
(R222), no zero extent (R114, R169). -/
def Instr.wellFormed : Instr → Bool
  | .setBorder color => decide (color.toNat ≤ 7)
  | .regionUpdate _ _ w h => extentOk w h
  | .extractRegion _ _ w h => extentOk w h
  | .exportImage _ => false
  | .initialise _ | .destroy | .clear _ | .setPixel _ _ _ | .getPixel _ _ | .fullUpdate => true
  | .shouldFullRefresh | .partialCount => true
  | .resolution | .panelSet | .powerSet | .pllCtrl | .tempEn | .vcomDi | .tconSet => true
  | .dataMode | .pwrSave | .poffSeq | .dataStart | .powerOn | .refresh | .powerOff => true
  | .partWindow | .partIn | .partOut => true

end Sys2Proof
end

