-- ==== Sys2Proof/Tests/Slice0.lean ====
section
/-! SUPPORT. Small tests against spec/95_test_vectors.md (V, P and S numbers), the smoke test of `wellFormed`, words written
out from spec/30_encoding.md, and for each statement with hypotheses a state and operands that meet them. -/

namespace Sys2Proof.Tests

open Sys2Proof Sys2Proof.Machine Sys2Proof.Safety

/-! ### Helpers -/

/-- A quiet environment: the clock stands at 1000, no fault, the panel gets ready, the spare nibble is 5. -/
def quiet : Env := ⟨1000, 0, .none, .readyOk, 0x5, 7⟩

/-- No context. -/
def vacant : State := { State.reset with env := quiet }

/-- A fresh context (R35) on either backend. -/
def fresh (emulated : Bool) : State :=
  { State.reset with pstate := .configured, lfrt := 1000, emu := emulated, env := quiet }

/-- Inside an operation, on the real backend. -/
def inside (active : Active) (q : SeqStep) (p : PState) : State :=
  { State.reset with active := active, seq := q, pstate := p, env := quiet }

/-- The host's next word. -/
def issuing (w : HostWord) (s : State) : State := { s with host := [.word w] }

/-- A test of the next state. -/
def after (o : StepOutcome) (f : State → Bool) : Bool :=
  match o with
  | .next t => f t
  | .fault _ => false
  | .refused _ => false

/-- A field of the next state. -/
def field {α : Type} (f : State → α) (o : StepOutcome) : Option α :=
  match o with
  | .next t => some (f t)
  | .fault _ => none
  | .refused _ => none

/-- The reason of a refusal. -/
def refusalOf (o : StepOutcome) : Option Refusal :=
  match o with
  | .refused r => some r
  | .next _ => none
  | .fault _ => none

theorem tickHz_pos : 0 < Config.tickHz := Nat.succ_pos _

/-! ### Well-formedness: an ill-formed term for each check -/

theorem test_wf_border_seven : (Instr.setBorder 7).wellFormed = true := by decide
theorem test_wf_border_eight : (Instr.setBorder 8).wellFormed = false := by decide
theorem test_wf_region : (Instr.regionUpdate 599 447 1 1).wellFormed = true := by decide
theorem test_wf_region_no_width : (Instr.regionUpdate 0 0 0 1).wellFormed = false := by decide
theorem test_wf_region_no_height : (Instr.regionUpdate 0 0 1 0).wellFormed = false := by decide
theorem test_wf_extract_no_width : (Instr.extractRegion 0 0 0 5).wellFormed = false := by decide
theorem test_wf_extract_no_height : (Instr.extractRegion 0 0 5 0).wellFormed = false := by decide
theorem test_wf_reserved : (Instr.exportImage 0).wellFormed = false := by decide

/-! ### Decoding: a word of each host operation (V2 to V8, P1 to P4), and the reserved ones (V8.7 to V8.13) -/

theorem test_decode_initialise : decodeTableWord 72 0x000001000000000000 = some (.initialise true) := by decide
theorem test_decode_destroy : decodeTableWord 72 0x010000000000000000 = some .destroy := by decide
theorem test_decode_clear : decodeTableWord 72 0x020025000000000000 = some (.clear 0x25) := by decide
theorem test_decode_setPixel : decodeTableWord 72 0x03025701BF00060000 = some (.setPixel 599 447 6) := by decide
theorem test_decode_getPixel : decodeTableWord 72 0x040258000000000000 = some (.getPixel 600 0) := by decide
theorem test_decode_setBorder : decodeTableWord 72 0x050008000000000000 = some (.setBorder 8) := by decide
theorem test_decode_fullUpdate : decodeTableWord 72 0x060000000000000000 = some .fullUpdate := by decide
theorem test_decode_regionUpdate :
    decodeTableWord 72 0x07024E01B6000A000A = some (.regionUpdate 590 438 10 10) := by decide
theorem test_decode_reserved :
    decodeTableWord 72 0x080000000000000001 = some (.exportImage 1) := by decide
theorem test_decode_shouldFullRefresh : decodeTableWord 72 0x090000000000000000 = some .shouldFullRefresh := by decide
theorem test_decode_partialCount : decodeTableWord 72 0x0A0000000000000000 = some .partialCount := by decide
theorem test_decode_extractRegion :
    decodeTableWord 72 0x0B0001000200030004 = some (.extractRegion 1 2 3 4) := by decide
theorem test_decode_unassigned : decodeTableWord 72 0x0C0000000000000000 = none := by decide
theorem test_decode_unassigned_last : decodeTableWord 72 0xFF0000000000000000 = none := by decide
theorem test_decode_initialise_mbz : decodeTableWord 72 0x000002000000000000 = none := by decide
theorem test_decode_setPixel_mbz : decodeTableWord 72 0x030000000001000000 = none := by decide
theorem test_decode_fullUpdate_mbz : decodeTableWord 72 0x060000000000000001 = none := by decide
theorem test_decode_getPixel_mbz : decodeTableWord 72 0x040000000000010000 = none := by decide

/-- The bytes of the panel commands are OPEN (R88): each command is one its own byte can stand for. -/
theorem test_decode_panel : ∀ i ∈ panelCommands, ∃ b, commandByte i = some b ∧ i ∈ commandsOf b := by
  intro i hi
  simp only [panelCommands, List.mem_cons, List.not_mem_nil, or_false] at hi
  rcases hi with rfl | rfl | rfl | rfl | rfl | rfl | rfl | rfl | rfl | rfl | rfl | rfl | rfl | rfl | rfl | rfl | rfl <;>
    exact ⟨_, rfl, by simp [commandsOf, panelCommands, commandByte]⟩

/-- The first row of R88 is picked whatever the bytes are. -/
theorem test_decode_resolution : decodeCommand Config.cmdResolution = some .resolution := by
  simp [decodeCommand, commandsOf, panelCommands, commandByte]

/-- R12: the eight colour numbers. -/
theorem test_colour_codes :
    [Colour.black, .white, .green, .blue, .red, .yellow, .orange, .clean].map Colour.code = [0, 1, 2, 3, 4, 5, 6, 7] := by
  decide

/-- R93. -/
theorem test_render : render (.setPixel 599 447 6) = some "set_pixel(599, 447, 6)" := by decide

/-! ### The pixel buffer -/

/-- S7: BLACK at the origin of a white buffer. -/
theorem test_setPixel_black :
    after (exec (.setPixel 0 0 Colour.black.operand) (fresh true)) (fun t => t.buf == [(0, 0x01)]) = true := by decide

/-- V2.14 with the colour 0x17, truncated to 7 (R83): the low nibble is preserved. -/
theorem test_setPixel_keeps_neighbour :
    after (exec (.setPixel 0 0 0x17) { fresh true with buf := [(0, 0x04)] }) (fun t => t.buf == [(0, 0x74)]) = true := by
  decide

/-- V2.15: white on the fresh buffer. -/
theorem test_getPixel_fresh :
    after (exec (.getPixel 5 5) (fresh true)) (fun t => t.result == some ⟨.ok, 1, []⟩) = true := by decide

/-- V2.16: the sentinel, although pixel index 600 exists. -/
theorem test_getPixel_sentinel :
    after (exec (.getPixel 600 0) (fresh true)) (fun t => t.result == some ⟨.ok, 0, []⟩) = true := by decide

/-- V3.4. -/
theorem test_clear_low_bits :
    after (exec (.clear 0x25) (fresh true)) (fun t => memRead t.buf 3 == 0x55) = true := by decide

/-- V3.5: clearing the fresh buffer to white changes nothing. -/
theorem test_clear_white : after (exec (.clear 1) (fresh true)) (fun t => t.buf == []) = true := by decide

/-- V4.4: rows straddle bytes, and the spare nibble is the drawn one. -/
theorem test_extractRegion_odd :
    after (exec (.extractRegion 1 1 3 3)
      { fresh true with
        buf := [(300, 0x12), (301, 0x34), (600, 0x15), (601, 0x67), (900, 0x18), (901, 0x9A)] })
      (fun t => t.result == some ⟨.ok, 5, [0x23, 0x45, 0x67, 0x89, 0xA5]⟩) = true := by decide

/-- V4.13: the sum does not wrap. -/
theorem test_extractRegion_no_wrap :
    after (exec (.extractRegion 65535 0 65535 1) (fresh true)) (fun t => t.result == some ⟨.errBounds, 0, []⟩)
      = true := by decide

/-! ### The refresh policy -/

/-- V6.13. -/
theorem test_partialCount :
    after (exec .partialCount { fresh true with pcount := 7 }) (fun t => t.result == some ⟨.ok, 7, []⟩) = true := by
  decide

/-- V6.5: the count alone. -/
theorem test_shouldFullRefresh_count :
    field (·.result) (exec .shouldFullRefresh { fresh true with pcount := 5 }) = some (some ⟨.ok, 1, []⟩) := by
  decide

/-- V6.4: one short of the limit, no time passed. -/
theorem test_shouldFullRefresh_below :
    field (·.result) (exec .shouldFullRefresh { fresh true with pcount := 4 }) = some (some ⟨.ok, 0, []⟩) := by
  have h : shouldFull 4 1000 1000 = false := by
    have := tickHz_pos
    simp [shouldFull, Config.fullIntervalT]
    omega
  show some (some (Result.mk .ok (if shouldFull 4 1000 1000 = true then 1 else 0) [])) = _
  rw [h]; rfl

/-! ### Updates, in one step on the emulated backend -/

/-- V7.6 and V6.8: the count is cleared, LFRT is the reading, the panel is off. -/
theorem test_fullUpdate :
    after (exec .fullUpdate { fresh true with pcount := 6, env := { quiet with advance := 500 } })
      (fun t => t.pcount == 0 && t.lfrt == 1500 && t.pstate == .poweredOff && t.trace == [] && t.seq == .none)
      = true := by decide

/-- V6.7 and V7.10: a sixth partial update is executed. -/
theorem test_regionUpdate :
    after (exec (.regionUpdate 10 20 10 10) { fresh true with pcount := 5 })
      (fun t => t.pcount == 6 && t.lfrt == 1000 && t.pstate == .poweredOff && t.trace == [] && t.seq == .none)
      = true := by decide

/-- V6.10: a bounds error counts nothing. -/
theorem test_regionUpdate_outside :
    after (exec (.regionUpdate 599 0 2 1) { fresh false with pcount := 3 })
      (fun t => t.result == some ⟨.errBounds, 0, []⟩ && t.pcount == 3 && t.trace == []) = true := by decide

/-! ### System operations -/

/-- V8.2, from the host word. -/
theorem test_initialise :
    after (step (vacant.withFetchWord 72 0x000001000000000000))
      (fun t => t.result == some ⟨.ok, 0, []⟩ && t.pstate == .configured && t.emu && t.border == 1 && t.trace == [])
      = true := by decide

/-- V8.17: the failure leaves no context. -/
theorem test_initialise_fails :
    after (exec (.initialise false) { vacant with env := { quiet with fault := .resource } })
      (fun t => t.result == some ⟨.failed, 0, []⟩ && t.pstate == .uninitialized && t.trace == []) = true := by decide

/-- V8.4. -/
theorem test_destroy :
    after (exec .destroy (fresh false)) (fun t => t.result == some ⟨.ok, 0, []⟩ && t.pstate == .uninitialized)
      = true := by decide

/-- V8.14. -/
theorem test_setBorder_seven : after (exec (.setBorder 7) (fresh false)) (fun t => t.border == 7) = true := by decide

/-- V8.15. -/
theorem test_setBorder_eight : refusalOf (exec (.setBorder 8) (fresh false)) = some .borderAboveSeven := by decide

/-- V8.7. -/
theorem test_exportImage :
    refusalOf (step (vacant.withFetchWord 72 0x080000000000000000)) = some .reservedOperation := by decide

/-- V8.1: only initialize is admitted right after reset. -/
theorem test_reset_no_context :
    refusalOf (step (State.reset.withFetchWord 72 0x040000000000000000)) = some .noContext := rfl

/-- R240: the status each error class is reported as, by its code of R241. -/
theorem test_status_codes :
    (statusCode (statusOf .boundsPixel), statusCode (statusOf .resourceFailure), statusCode (statusOf .transportFailure),
      statusCode (statusOf .boundsRegion), statusCode (statusOf .boundsWindow), statusCode (statusOf .busyTimeout))
      = (0, 1, 1, 2, 2, 0) := by decide

/-! ### The panel commands, each at its step -/

theorem test_resolution :
    field (·.seq) (exec .resolution (inside .initialise .i1Resolution .uninitialized)) = some .i2PanelSet := rfl
theorem test_panelSet :
    field (·.seq) (exec .panelSet (inside .initialise .i2PanelSet .uninitialized)) = some .i3PowerSet := rfl
theorem test_powerSet :
    field (·.seq) (exec .powerSet (inside .initialise .i3PowerSet .uninitialized)) = some .i4PllCtrl := rfl
theorem test_pllCtrl :
    field (·.seq) (exec .pllCtrl (inside .initialise .i4PllCtrl .uninitialized)) = some .i5TempEn := rfl
theorem test_tempEn :
    field (·.seq) (exec .tempEn (inside .initialise .i5TempEn .uninitialized)) = some .i6VcomDi := rfl
theorem test_vcomDi :
    field (·.seq) (exec .vcomDi (inside .initialise .i6VcomDi .uninitialized)) = some .i7TconSet := rfl
theorem test_tconSet :
    field (·.seq) (exec .tconSet (inside .initialise .i7TconSet .uninitialized)) = some .i8DataMode := rfl
theorem test_dataMode :
    field (·.seq) (exec .dataMode (inside .initialise .i8DataMode .uninitialized)) = some .i9PwrSave := rfl
theorem test_pwrSave :
    field (·.seq) (exec .pwrSave (inside .initialise .i9PwrSave .uninitialized)) = some .i10PoffSeq := rfl
theorem test_poffSeq :
    field (·.pstate) (exec .poffSeq (inside .initialise .i10PoffSeq .uninitialized)) = some .configured := rfl

/-- P3 step 8, on a smaller rectangle: pixels (3,2) and (4,2). -/
theorem test_dataStart :
    field (·.trace) (exec .dataStart
        { inside (.regionUpdate 3 2 2 1) .p3Data .configured with buf := [(601, 0x12), (602, 0x39)] })
      = some [.cmd Config.cmdDataStart, .dat [0x23]] := rfl

theorem test_powerOn :
    field (·.trace) (exec .powerOn (inside .fullUpdate .t1PowerOn .configured)) = some [.cmd Config.cmdPowerOn] := rfl
theorem test_refresh :
    field (fun t => (t.trace, t.pstate)) (exec .refresh (inside .fullUpdate .t3Refresh .idle))
      = some ([.cmd Config.cmdRefresh], .busy) := rfl
theorem test_powerOff :
    field (·.trace) (exec .powerOff (inside .fullUpdate .t5PowerOff .idle)) = some [.cmd Config.cmdPowerOff] := rfl

/-- V5.6. -/
theorem test_partWindow :
    field (·.trace) (exec .partWindow (inside (.regionUpdate 590 440 10 8) .p1Window .configured))
      = some [.cmd Config.cmdPartWindow, .dat [0x02, 0x4E, 0x01, 0xB8, 0x02, 0x57, 0x01, 0xBF]] := rfl

theorem test_partIn :
    field (·.trace) (exec .partIn (inside (.regionUpdate 0 0 1 1) .p2PartIn .configured))
      = some [.cmd Config.cmdPartIn] := rfl

/-- R169: PSTATE stays POWERED_OFF. -/
theorem test_partOut :
    field (fun t => (t.trace, t.pstate, t.seq)) (exec .partOut (inside (.regionUpdate 0 0 1 1) .p4PartOut .poweredOff))
      = some ([.cmd Config.cmdPartOut], .poweredOff, .none) := rfl

/-- R166, V7.5: the timed-out wait adds the warning and goes on. -/
theorem test_wait_timed_out :
    field (fun t => (t.trace, t.seq))
        (step { inside .fullUpdate .t4Wait .busy with env := { quiet with ready := .timedOut } })
      = some ([.wait 40000 10 .timedOut, .warn .busyTimeout], .t5PowerOff) := rfl

/-! ### For each statement with hypotheses, values that meet them (the statement's name, then the clause) -/

theorem witness_DecodeOfEncode : encode (.setPixel 599 447 6) = some 0x03025701BF00060000 := by decide
theorem witness_EncodeOfDecode : decode 0x0B0001000200030004 = .ok (.extractRegion 1 2 3 4) := by decide
theorem witness_DecodeFollowsMatchMask :
    HostRow.mk "initialize" 0x000000000000000000 0xFFFFFEFFFFFFFFFFFF ∈ hostTable := by decide

theorem witness_ReservedWordRefused_opcode8 (w : HostWord) (hw : w = 0x080000000000000000) :
    (issuing w vacant).seq = .none ∧ (issuing w vacant).host = [.word w]
      ∧ ∀ r ∈ hostTable, r.mnemonic ≠ "export_image" → w &&& r.mask ≠ r.pattern := by
  subst hw; decide
theorem witness_ReservedWordRefused_other (w : HostWord) (hw : w = 0x000002000000000000) :
    (issuing w (fresh true)).seq = .none ∧ (issuing w (fresh true)).host = [.word w]
      ∧ (∀ r ∈ hostTable, r.mnemonic ≠ "export_image" → w &&& r.mask ≠ r.pattern)
      ∧ w.extractLsb' 64 8 ≠ 0x08 := by
  subst hw; decide

theorem witness_ExportImageRefused (w : HostWord) (hw : w = 0x080000000000000000) :
    (issuing w (fresh true)).seq = .none ∧ (issuing w (fresh true)).host = [.word w] ∧ w.extractLsb' 64 8 = 0x08 := by
  subst hw; decide

theorem witness_CommandByteCandidates : decodeCommand Config.cmdResolution = some .resolution := test_decode_resolution
theorem witness_CommandByteCandidates_byte : commandByte .partOut = some Config.cmdPartOut := rfl

theorem witness_StepRunsHostOperation (w : HostWord) (hw : w = 0x040005000500000000) :
    (issuing w (fresh true)).seq = .none ∧ (issuing w (fresh true)).host = [.word w]
      ∧ decode w = .ok (.getPixel 5 5) := by
  subst hw; decide

theorem witness_StepRunsPanelCommand :
    commandAt (inside .fullUpdate .t3Refresh .idle).seq = some .refresh := rfl

theorem witness_InternalSequencerSteps_i0 :
    (inside .initialise .i0Reset .uninitialized).seq = .i0Reset
      ∧ (inside .initialise .i0Reset .uninitialized).active ≠ .idle
      ∧ (inside .initialise .i0Reset .uninitialized).active ≠ .fullUpdate := by decide
theorem witness_InternalSequencerSteps_t2 :
    (inside .fullUpdate .t2Settle .configured).seq = .t2Settle
      ∧ (inside .fullUpdate .t2Settle .configured).active ≠ .idle
      ∧ (inside .fullUpdate .t2Settle .configured).active ≠ .initialise := by decide
theorem witness_InternalSequencerSteps_t4 :
    (inside (.regionUpdate 0 0 1 1) .t4Wait .busy).seq = .t4Wait
      ∧ (inside (.regionUpdate 0 0 1 1) .t4Wait .busy).active ≠ .idle
      ∧ (inside (.regionUpdate 0 0 1 1) .t4Wait .busy).active ≠ .initialise := by decide
theorem witness_InternalSequencerSteps_t6_full :
    (inside .fullUpdate .t6Settle .idle).seq = .t6Settle ∧ (inside .fullUpdate .t6Settle .idle).active = .fullUpdate := by
  decide
theorem witness_InternalSequencerSteps_t6_region :
    (inside (.regionUpdate 0 0 1 1) .t6Settle .idle).seq = .t6Settle
      ∧ (inside (.regionUpdate 0 0 1 1) .t6Settle .idle).active = .regionUpdate 0 0 1 1 := by decide

theorem witness_IdleBlockKeepsState : (fresh true).seq = .none ∧ (fresh true).host = [] := by decide
theorem witness_HardwareResetEndsContext :
    ({ fresh true with host := [.hardwareReset] } : State).seq = .none
      ∧ ({ fresh true with host := [.hardwareReset] } : State).host = [.hardwareReset] := by decide

/-- GetPixelReturnsPixel, ClearSetsEveryPixel, PartialCountReturnsCount, ShouldFullRefreshAdvises, FullUpdateEffect,
FullUpdateTrace, DestroyEndsContext, ClearThenGetRoundTrip, FullUpdateClearsAdvice (its first hypothesis),
FullUpdateStepByStep, ContextRuleRefused (its second clause). -/
theorem witness_Ready : Ready (fresh false) ∧ Ready (fresh true) := by decide

/-- GetPixelReturnsPixel at the edge: the last pixel in range (an odd column; 598 is the even one beside it), the first column and the first row out of it. -/
theorem witness_GetPixelReturnsPixel :
    ((599 : Coord).toNat < 600 ∧ (447 : Coord).toNat < 448) ∧ (598 : Coord).toNat % 2 = 0 ∧ ¬ ((600 : Coord).toNat < 600)
      ∧ ¬ ((448 : Coord).toNat < 448) := by decide

theorem witness_SetPixelWritesOnePixel :
    Ready (fresh true) ∧ memWf (fresh true).buf = true ∧ (599 : Coord).toNat < 600 ∧ (447 : Coord).toNat < 448 := by
  decide
theorem witness_SetPixelWritesOnePixel_even :
    Ready (fresh true) ∧ memWf (fresh true).buf = true ∧ (598 : Coord).toNat < 600 ∧ (0 : Coord).toNat < 448
      ∧ (598 : Coord).toNat % 2 = 0 ∧ (599 : Coord).toNat % 2 ≠ 0 := by decide
theorem witness_SetThenGetRoundTrip_in :
    Ready (fresh true) ∧ memWf (fresh true).buf = true ∧ ((599 : Coord).toNat < 600 ∧ (447 : Coord).toNat < 448) := by
  decide
theorem witness_SetThenGetRoundTrip_out :
    Ready (fresh true) ∧ memWf (fresh true).buf = true ∧ 600 ≤ (600 : Coord).toNat ∧ 448 ≤ (448 : Coord).toNat := by
  decide

/-- ExtractRegionRepacksPixels, ExtractRegionAgreesWithGetPixel, RegionUpdateEffect, RegionUpdateTrace,
RegionUpdateStepByStep: a rectangle that ends exactly at the edges, the count one below its last admitted value. -/
theorem witness_RectangleInside :
    Ready { fresh true with pcount := 0xFFFFFFFE } ∧ 1 ≤ (1 : Coord).toNat ∧ 1 ≤ (3 : Coord).toNat
      ∧ (599 : Coord).toNat + (1 : Coord).toNat ≤ 600 ∧ (445 : Coord).toNat + (3 : Coord).toNat ≤ 448
      ∧ ({ fresh true with pcount := 0xFFFFFFFE } : State).pcount.toNat < 2 ^ 32 - 1 := by decide

/-- RectangleOutsideReported, one column too many and one row too many. -/
theorem witness_RectangleOutsideReported :
    Ready (fresh false) ∧ 1 ≤ (2 : Coord).toNat ∧ 600 < (599 : Coord).toNat + (2 : Coord).toNat
      ∧ 448 < (447 : Coord).toNat + (2 : Coord).toNat := by decide

theorem witness_ZeroExtentRefused_width : Ready (fresh true) ∧ (0 : Coord).toNat = 0 := by decide

theorem witness_CountOverflowRefused :
    Ready { fresh true with pcount := 0xFFFFFFFF } ∧ 1 ≤ (1 : Coord).toNat ∧ (599 : Coord).toNat + (1 : Coord).toNat ≤ 600
      ∧ (447 : Coord).toNat + (1 : Coord).toNat ≤ 448
      ∧ ({ fresh true with pcount := 0xFFFFFFFF } : State).pcount.toNat = 2 ^ 32 - 1 := by decide

theorem witness_AddressDecoderBijective : (599 < 600 ∧ 447 < 448) ∧ 134399 < 134400 := by decide
theorem witness_NibbleWriteDoesNotAlias : memWf [] = true ∧ 268799 < 268800 ∧ 268798 ≠ 268799 := by decide

/-- ShouldFullRefreshAdvises: both sides of both limits (R143: "greater than or equal"). -/
theorem witness_ShouldFullRefreshAdvises :
    (5 ≤ (5 : BitVec 32).toNat ∧ ¬ 5 ≤ (4 : BitVec 32).toNat)
      ∧ 180 * Config.tickHz ≤ (1000 + 180 * Config.tickHz) + 0 - 1000
      ∧ ¬ 180 * Config.tickHz ≤ (1000 + (180 * Config.tickHz - 1)) + 0 - 1000 := by
  have := tickHz_pos
  refine ⟨by decide, by omega, by omega⟩

/-- Five accepted region updates (S8). -/
def fiveUpdates : List Instr :=
  [.regionUpdate 0 0 10 10, .regionUpdate 100 50 10 10, .regionUpdate 200 100 10 10, .regionUpdate 300 150 10 10,
   .regionUpdate 590 438 10 10]

theorem witness_PartialUpdatesAreCounted_five :
    Ready (fresh true) ∧ (fresh true).pcount = 0 ∧ fiveUpdates.length < 2 ^ 32
      ∧ (∀ i ∈ fiveUpdates, acceptedRegion i = true) ∧ 5 ≤ fiveUpdates.length := by decide
theorem witness_PartialUpdatesAreCounted_four :
    Ready (fresh true) ∧ (fresh true).pcount = 0 ∧ (fiveUpdates.drop 1).length < 2 ^ 32
      ∧ (∀ i ∈ fiveUpdates.drop 1, acceptedRegion i = true) ∧ (fiveUpdates.drop 1).length < 5
      ∧ quiet.clk + quiet.advance - (fresh true).lfrt < 180 * Config.tickHz := by
  have := tickHz_pos
  refine ⟨by decide, by decide, by decide, by decide, by decide, ?_⟩
  show 1000 + 0 - 1000 < _
  omega

/-- FullUpdateClearsAdvice: whatever LFRT became, an environment whose clock still stands there. -/
theorem witness_FullUpdateClearsAdvice (t : State) :
    ({ quiet with clk := t.lfrt } : Env).clk + ({ quiet with clk := t.lfrt } : Env).advance - t.lfrt
      < 180 * Config.tickHz := by
  have := tickHz_pos
  show t.lfrt + 0 - t.lfrt < _
  omega

/-- CountChangesOnlyByUpdates, RegistersWrittenOnlyByTheirOperations, WhoEmits, BackendMakesNoOtherDifference: an
instruction of each kind that answers a next state. -/
theorem witness_exec_full : ∃ t, exec .fullUpdate (fresh true) = .next t := ⟨_, rfl⟩
theorem witness_exec_region : ∃ t, exec (.regionUpdate 0 0 1 1) (fresh true) = .next t := ⟨_, rfl⟩
theorem witness_exec_outside : ∃ t, exec (.regionUpdate 599 0 2 1) (fresh true) = .next t := ⟨_, rfl⟩
theorem witness_exec_other : ∃ t, exec (.setBorder 4) (fresh true) = .next t ∧ t.emu = true := ⟨_, rfl, rfl⟩

/-- InitializeCreatesContext, InitializeTrace, InitializeStepByStep: no fault, and TRANSPORT held ready for an emulated
initialize (log entry 22). -/
theorem witness_Vacant : Vacant vacant ∧ initFault false vacant.env.fault = .none := by decide
theorem witness_Vacant_transport :
    Vacant { vacant with env := { quiet with fault := .transport } }
      ∧ initFault true ({ vacant with env := { quiet with fault := .transport } } : State).env.fault = .none := by decide
theorem witness_InitializeFails :
    Vacant { vacant with env := { quiet with fault := .resource } }
      ∧ ({ vacant with env := { quiet with fault := .resource } } : State).env.fault = .resource := by decide
theorem witness_InitializeFails_transport :
    Vacant { vacant with env := { quiet with fault := .transport } }
      ∧ ({ vacant with env := { quiet with fault := .transport } } : State).env.fault = .transport ∧ false = false := by
  decide

theorem witness_SetBorderWritesBorder : Ready (fresh true) ∧ (7 : Byte).toNat ≤ 7 ∧ 7 < (8 : Byte).toNat := by decide

/-- ContextRuleRefused (its first clause), DestroyEndsContext (the operations after it). -/
theorem witness_ContextRuleRefused :
    Vacant vacant ∧ commandByte (.getPixel 0 0) = none ∧ (∀ e, Instr.getPixel 0 0 ≠ .initialise e)
      ∧ ∀ r, Instr.getPixel 0 0 ≠ .exportImage r := by
  refine ⟨by decide, rfl, ?_, ?_⟩ <;> intro _ h <;> cases h
theorem witness_OverlappingOperationRefused :
    (inside .fullUpdate .t4Wait .busy).seq ≠ .none ∧ commandByte (.clear 0) = none
      ∧ ∀ r, Instr.clear 0 ≠ .exportImage r := by
  refine ⟨by decide, rfl, ?_⟩
  intro _ h; cases h

theorem witness_InitCommandsSend :
    (Instr.vcomDi, SeqStep.i6VcomDi, Config.cmdVcomDi, Config.cdiPayload 1, SeqStep.i7TconSet) ∈ initCommandTable 1
      ∧ (inside .initialise .i6VcomDi .uninitialized).border = 1
      ∧ (inside .initialise .i6VcomDi .uninitialized).seq = .i6VcomDi
      ∧ (inside .initialise .i6VcomDi .uninitialized).active ≠ .idle
      ∧ (inside .initialise .i6VcomDi .uninitialized).active ≠ .fullUpdate := by
  refine ⟨?_, by decide, by decide, by decide, by decide⟩
  simp [initCommandTable]
theorem witness_PoffSeqConfigures_initialise :
    (inside .initialise .i10PoffSeq .uninitialized).seq = .i10PoffSeq
      ∧ (inside .initialise .i10PoffSeq .uninitialized).active = .initialise := by decide
theorem witness_PoffSeqConfigures_region :
    (inside (.regionUpdate 0 0 1 1) .i10PoffSeq .poweredOff).seq = .i10PoffSeq
      ∧ (inside (.regionUpdate 0 0 1 1) .i10PoffSeq .poweredOff).active ≠ .idle
      ∧ (inside (.regionUpdate 0 0 1 1) .i10PoffSeq .poweredOff).active ≠ .fullUpdate
      ∧ (inside (.regionUpdate 0 0 1 1) .i10PoffSeq .poweredOff).active ≠ .initialise := by decide
theorem witness_TailCommandsSend :
    (inside .fullUpdate .t1PowerOn .configured).active ≠ .idle
      ∧ (inside .fullUpdate .t1PowerOn .configured).active ≠ .initialise
      ∧ (inside .fullUpdate .t1PowerOn .configured).seq = .t1PowerOn
      ∧ (inside .fullUpdate .t3Refresh .idle).seq = .t3Refresh
      ∧ (inside .fullUpdate .t5PowerOff .idle).seq = .t5PowerOff := by decide
theorem witness_DataStartSendsPayload_full :
    (inside .fullUpdate .f0Data .configured).seq = .f0Data
      ∧ (inside .fullUpdate .f0Data .configured).active = .fullUpdate := by decide
theorem witness_DataStartSendsPayload_region :
    (inside (.regionUpdate 599 447 1 1) .p3Data .configured).seq = .p3Data
      ∧ (inside (.regionUpdate 599 447 1 1) .p3Data .configured).active = .regionUpdate 599 447 1 1
      ∧ 1 ≤ (1 : Coord).toNat ∧ (599 : Coord).toNat + (1 : Coord).toNat ≤ 600
      ∧ (447 : Coord).toNat + (1 : Coord).toNat ≤ 448 := by decide
theorem witness_PartialModeCommandsSend :
    (inside (.regionUpdate 0 0 1 1) .p1Window .configured).active = .regionUpdate 0 0 1 1
      ∧ (inside (.regionUpdate 0 0 1 1) .p1Window .configured).seq = .p1Window
      ∧ (inside (.regionUpdate 0 0 1 1) .p2PartIn .configured).seq = .p2PartIn
      ∧ (inside (.regionUpdate 0 0 1 1) .p4PartOut .poweredOff).seq = .p4PartOut := by decide
theorem witness_OutOfSequenceRefused :
    (commandByte .refresh).isSome = true ∧ commandAt (fresh true).seq ≠ some .refresh := by
  refine ⟨rfl, by decide⟩
theorem witness_StagedRectangleOutsideFaults :
    (inside (.regionUpdate 599 0 2 1) .p3Data .configured).seq = .p3Data
      ∧ (inside (.regionUpdate 599 0 2 1) .p3Data .configured).active = .regionUpdate 599 0 2 1
      ∧ 600 < (599 : Coord).toNat + (2 : Coord).toNat := by decide

/-- StepKeepsInvariant, OperationsEndAtRest, InvariantNeverFaults: between operations. -/
theorem witness_Inv_rest :
    Inv (issuing 0x030001000000040000 (fresh true)) ∧ (issuing 0x030001000000040000 (fresh true)).seq = .none
      ∧ ∃ t, step (issuing 0x030001000000040000 (fresh true)) = .next t :=
  ⟨⟨by decide, by decide, by decide, by decide, by decide, by decide⟩, by decide, _, rfl⟩

/-- StepKeepsInvariant, InvariantNeverFaults: inside a region update. -/
theorem witness_Inv_inside :
    Inv (inside (.regionUpdate 599 447 1 1) .p3Data .configured)
      ∧ ∃ t, step (inside (.regionUpdate 599 447 1 1) .p3Data .configured) = .next t :=
  ⟨⟨by decide, by decide, by decide, by decide, by decide, by decide⟩, _, rfl⟩

theorem witness_ClockNeverDecreases : ∃ t, step (fresh true) = .next t := ⟨_, rfl⟩

/-- Samples one second apart, none of them ready. -/
def slowSamples : Nat → Nat → List Sample
  | _, 0 => []
  | last, n + 1 => ⟨last + Config.tickHz, false⟩ :: slowSamples (last + Config.tickHz) n

theorem slowSamples_length (last n : Nat) : (slowSamples last n).length = n := by
  induction n generalizing last with
  | zero => rfl
  | succ n ih => simp [slowSamples, ih]

theorem slowSamples_spaced (last n : Nat) : spaced last (slowSamples last n) = true := by
  induction n generalizing last with
  | zero => rfl
  | succ n ih =>
    simp only [slowSamples, spaced, ih, Bool.and_true, decide_eq_true_eq]
    have h : Config.pollIntervalMs = 10 := rfl
    rw [h]
    omega

theorem witness_PollLoopAnswers_ends :
    0 ≤ (Sample.mk 0 false).now ∧ spaced (Sample.mk 0 false).now (slowSamples 0 4000) = true
      ∧ 4000 ≤ (slowSamples 0 4000).length :=
  ⟨le_rfl, slowSamples_spaced 0 4000, (slowSamples_length 0 4000).ge⟩
theorem witness_PollLoopAnswers_ready : pollLoop 0 [⟨0, true⟩] = some .readyOk := rfl
/-- A first ready sample taken ten seconds after the timeout (log entry 26). -/
theorem witness_PollLoopAnswers_ready_late :
    pollLoop 0 [⟨0, false⟩, ⟨50 * Config.tickHz, true⟩] = some .readyOk := by
  have h : Config.busyTimeoutMs = 40000 := rfl
  have hp := tickHz_pos
  simp only [pollLoop, timedOutAt, h]
  rw [if_neg (by simp), if_neg (by simp; omega), if_pos trivial]
theorem witness_PollLoopAnswers_timed_out : pollLoop 0 [⟨0, false⟩, ⟨40 * Config.tickHz, false⟩] = some .timedOut := by
  have h : Config.busyTimeoutMs = 40000 := rfl
  have hp := tickHz_pos
  simp only [pollLoop, timedOutAt, h]
  rw [if_neg (by simp), if_neg (by simp; omega), if_neg (by simp), if_pos (by simp; omega)]

/-- ChunkingNotObservable: BUF handed over as one piece. -/
theorem witness_ChunkingNotObservable :
    Ready (fresh false) ∧ (fresh false).emu = false
      ∧ [(List.range 134400).map (memRead (fresh false).buf)] ≠ []
      ∧ [(List.range 134400).map (memRead (fresh false).buf)].flatten
        = (List.range 134400).map (memRead (fresh false).buf) :=
  ⟨by decide, rfl, List.cons_ne_nil _ _, by simp only [List.flatten_cons, List.flatten_nil, List.append_nil]⟩

end Sys2Proof.Tests
end

namespace Sys2Proof.Machine

open Sys2Proof.Safety

/-! ### What a step of the machine can be -/

/-- An instruction comes from the host's next word, taken out of `host`, or is the command of the step SEQ names
(R6, R27). -/
theorem fetch_run_inv {s s1 : State} {i : Instr} (h : fetch s = .run i s1) :
    (s.seq = .none ∧ ∃ w rest, s.host = .word w :: rest ∧ decode w = .ok i ∧ s1 = setHost rest s)
      ∨ (s.seq ≠ .none ∧ commandAt s.seq = some i ∧ s1 = s) := by
  unfold fetch at h
  split at h
  · next hq =>
    unfold fetchHost at h
    split at h
    · cases h
    · cases h
    · next w rest hw =>
      split at h
      · next hd => cases h; exact .inl ⟨hq, w, rest, hw, hd, rfl⟩
      · cases h
  · next hq =>
    unfold fetchSeq at h
    split at h
    · next hc => cases h; exact .inr ⟨hq, hc, rfl⟩
    · cases h

/-- A hardware reset comes from the host, between operations, and is taken out of `host` (R270). -/
theorem fetch_reset_inv {s s1 : State} (h : fetch s = .reset s1) :
    s.seq = .none ∧ ∃ rest, s.host = .hardwareReset :: rest ∧ s1 = setHost rest s := by
  unfold fetch at h
  split at h
  · next hq =>
    unfold fetchHost at h
    split at h
    · cases h
    · next rest hw => cases h; exact ⟨hq, rest, hw, rfl⟩
    · split at h <;> cases h
  · unfold fetchSeq at h
    split at h <;> cases h

/-- A step that answers a next state has run the instruction fetched, a sequencer step that sends no command, a hardware
reset, or was idle. -/
theorem step_inv {s t : State} (h : step s = .next t) :
    (∃ i s1, fetch s = .run i s1 ∧ exec i s1 = .next t) ∨ (fetch s = .internal ∧ microStep s = t)
      ∨ (∃ s1, fetch s = .reset s1 ∧ hardwareReset s1 = t) ∨ (fetch s = .nothing ∧ idleStep s = t) := by
  unfold step at h
  split at h
  · next i s1 hf => exact .inl ⟨i, s1, hf, h⟩
  · next hf => exact .inr (.inl ⟨hf, next_inj h⟩)
  · cases h
  · next s1 hf => exact .inr (.inr (.inl ⟨s1, hf, next_inj h⟩))
  · next hf => exact .inr (.inr (.inr ⟨hf, next_inj h⟩))

/-! ### The clock (R11) -/

/-- Fetching an instruction draws nothing from the environment. -/
theorem fetch_run_env {s s1 : State} {i : Instr} (h : fetch s = .run i s1) : s1.env = s.env := by
  obtain ⟨-, w, rest, -, -, rfl⟩ | ⟨-, -, rfl⟩ := fetch_run_inv h
  · exact setHost_env rest s
  · rfl

/-- The clock does not go back when the environment advances it. -/
theorem tick_clk (s : State) : s.env.clk ≤ (tick s).env.clk := by simp

/-- The clock does not go back over a sequencer step. -/
theorem microStep_clk (s : State) : s.env.clk ≤ (microStep s).env.clk := by
  rw [microStep_eq, advanceSeq_env, ← seqAction_clk s.seq s]
  exact tick_clk _

/-- The clock does not go back over a hardware reset. -/
theorem hardwareReset_clk (s : State) : s.env.clk ≤ (hardwareReset s).env.clk := by
  simp [hardwareReset]

/-- initialize starts with a clock reading, for which the clock may advance. -/
theorem startInitialise_clk (e : Bool) (s : State) : s.env.clk ≤ (startInitialise e s).env.clk := by simp

/-- full_update starts with a clock reading, for which the clock may advance. -/
theorem startFullUpdate_clk (s : State) : s.env.clk ≤ (startFullUpdate s).env.clk := by simp

/-- The clock does not go back over an instruction: a host operation ends in a return, or in a run of its sequence after
a start that did not move the clock back; a panel command is a sequencer step. -/
theorem exec_clk {i : Instr} {s t : State} (h : exec i s = .next t) : s.env.clk ≤ t.env.clk := by
  cases i
  case initialise e =>
    obtain ⟨-, ⟨-, rfl⟩ | ⟨-, rfl⟩⟩ := execInitialise_inv h
    · exact complete_clk _ (redrawFault (beginOp s))
    · exact (startInitialise_clk e (redrawFault (beginOp s))).trans (runSteps_clk _ _)
  case destroy =>
    obtain ⟨-, rfl⟩ := execDestroy_inv h
    exact complete_clk _ (setPstate _ (forget (beginOp s)))
  case clear c =>
    obtain ⟨-, rfl⟩ := execClear_inv h
    exact complete_clk _ (setBuf _ (beginOp s))
  case setPixel x y c =>
    obtain ⟨-, ⟨-, -, rfl⟩ | rfl⟩ := execSetPixel_inv h
    · exact complete_clk _ (setBuf _ (beginOp s))
    · exact complete_clk _ (beginOp s)
  case getPixel x y =>
    obtain ⟨-, r, rfl⟩ := execGetPixel_inv h
    exact complete_clk r (beginOp s)
  case setBorder c =>
    obtain ⟨-, rfl⟩ := execSetBorder_inv h
    exact complete_clk _ (setBorder _ (beginOp s))
  case fullUpdate =>
    obtain ⟨-, rfl⟩ := execFullUpdate_inv h
    exact (startFullUpdate_clk s).trans (runSteps_clk _ _)
  case regionUpdate x y w h' =>
    obtain ⟨-, -, rfl | ⟨-, -, rfl⟩⟩ := execRegionUpdate_inv h
    · exact complete_clk _ (beginOp s)
    · exact runSteps_clk _ (startRegionUpdate x y w h' s)
  case shouldFullRefresh =>
    obtain ⟨-, r, rfl⟩ := execShouldFullRefresh_inv h
    exact (tick_clk s).trans (complete_clk r (tick (beginOp s)))
  case partialCount =>
    obtain ⟨-, rfl⟩ := execPartialCount_inv h
    exact complete_clk _ (beginOp s)
  case extractRegion x y w h' =>
    obtain ⟨-, r, rfl | rfl⟩ := execExtractRegion_inv h
    · exact complete_clk r (beginOp s)
    · rw [← beginOp_env s, ← stageRegion_clk x y w h' (beginOp s)]
      exact complete_clk r _
  case exportImage rest => cases h
  all_goals
    obtain ⟨-, -, rfl⟩ := execPanel_inv rfl h
    exact microStep_clk s

/-- Settles O56: each thing a step can be keeps the clock from going back. -/
theorem clockNeverDecreases : Obligations.ClockNeverDecreases := by
  unfold Obligations.ClockNeverDecreases
  intro s t h
  obtain ⟨i, s1, hf, he⟩ | ⟨-, rfl⟩ | ⟨s1, hf, rfl⟩ | ⟨-, rfl⟩ := step_inv h
  · rw [← fetch_run_env hf]
    exact exec_clk he
  · exact microStep_clk s
  · obtain ⟨-, rest, -, rfl⟩ := fetch_reset_inv hf
    exact hardwareReset_clk (setHost rest s)
  · exact tick_clk s

end Sys2Proof.Machine

namespace Sys2Proof.Machine

open Sys2Proof.Safety

/-! ### The single step of a sequence: refusals and what is fetched -/

/-- A panel command away from its step is refused (R27, R171). -/
theorem atStep_refused {q : SeqStep} {s : State} (hq : s.seq ≠ q) (name : String) (sent : State) :
    atStep q name s sent = .refused (.outOfSequence name) :=
  if_neg hq

/-- Settles O46: each command stands at its one step, and DATA_START at two. -/
theorem outOfSequenceRefused : Obligations.OutOfSequenceRefused := by
  unfold Obligations.OutOfSequenceRefused
  intro s i hi hc
  have away {q : SeqStep} (hq : commandAt q = some i) : s.seq ≠ q := by
    rintro rfl
    exact hc hq
  cases i <;> simp only [commandByte, Option.isSome_none, Bool.false_eq_true] at hi
  case dataStart =>
    have hp3 : s.seq ≠ .p3Data := away rfl
    rw [exec, execDataStart, if_neg (away rfl), if_neg (by simp [hp3])]
    exact atStep_refused hp3 _ _
  all_goals exact atStep_refused (away rfl) _ _

/-- No panel command belongs to SEQ = NONE (R27). -/
theorem seq_ne_none_of_commandAt {s : State} {i : Instr} (h : commandAt s.seq = some i) : s.seq ≠ .none := by
  intro hq
  rw [hq] at h
  cases h

/-- At a step that sends a command, that command is what the block does next (R170). -/
theorem fetch_commandAt {s : State} {i : Instr} (h : commandAt s.seq = some i) : fetch s = .run i s := by
  simp only [fetch, if_neg (seq_ne_none_of_commandAt h), fetchSeq, h]

/-- Settles O9, from what is fetched at a command step. -/
theorem stepRunsPanelCommand : Obligations.StepRunsPanelCommand := by
  unfold Obligations.StepRunsPanelCommand
  intro s i h
  simp only [step, fetch_commandAt h]

/-! ### Who writes BUF, BORDER, LFRT and EMU (R21, R22, R24, R26) -/

/-- BUF, BORDER, LFRT and EMU are the same. -/
def SameStore (s t : State) : Prop :=
  t.buf = s.buf ∧ t.border = s.border ∧ t.lfrt = s.lfrt ∧ t.emu = s.emu

/-- A sequencer step writes none of the four. -/
theorem microStep_sameStore (s : State) : SameStore s (microStep s) := by
  simp [SameStore, microStep_eq]

/-- A whole sequence writes none of the four. -/
theorem runSteps_sameStore (qs : List SeqStep) (s : State) : SameStore s (runSteps qs s) := by
  simp [SameStore]

/-- Returning writes none of the four. -/
theorem complete_sameStore (r : Result) (s : State) : SameStore s (complete r s) := by
  simp [SameStore]

/-- The operations that name none of the four, and all panel commands, write none of them (R29). -/
theorem exec_sameStore {i : Instr} {s t : State} (h : exec i s = .next t) (hini : ∀ e, i ≠ .initialise e)
    (hdes : i ≠ .destroy) (hpix : ∀ x y c, i ≠ .setPixel x y c) (hclr : ∀ c, i ≠ .clear c)
    (hbor : ∀ c, i ≠ .setBorder c) (hful : i ≠ .fullUpdate) : SameStore s t := by
  cases i
  case initialise e => exact absurd rfl (hini e)
  case destroy => exact absurd rfl hdes
  case setPixel x y c => exact absurd rfl (hpix x y c)
  case clear c => exact absurd rfl (hclr c)
  case setBorder c => exact absurd rfl (hbor c)
  case fullUpdate => exact absurd rfl hful
  case getPixel x y =>
    obtain ⟨-, r, rfl⟩ := execGetPixel_inv h
    exact complete_sameStore r (beginOp s)
  case regionUpdate x y w h' =>
    obtain ⟨-, -, rfl | ⟨-, -, rfl⟩⟩ := execRegionUpdate_inv h
    · exact complete_sameStore _ (beginOp s)
    · exact runSteps_sameStore _ (startRegionUpdate x y w h' s)
  case shouldFullRefresh =>
    obtain ⟨-, r, rfl⟩ := execShouldFullRefresh_inv h
    exact complete_sameStore r (tick (beginOp s))
  case partialCount =>
    obtain ⟨-, rfl⟩ := execPartialCount_inv h
    exact complete_sameStore _ (beginOp s)
  case extractRegion x y w h' =>
    obtain ⟨-, r, rfl | rfl⟩ := execExtractRegion_inv h
    · exact complete_sameStore r (beginOp s)
    · simp [SameStore]
  case exportImage rest => cases h
  all_goals
    obtain ⟨-, -, rfl⟩ := execPanel_inv rfl h
    exact microStep_sameStore s

/-- Settles O55: each of the four operations that write one of them keeps the others, and every other instruction keeps
all four. -/
theorem registersWrittenOnlyByTheirOperations : Obligations.RegistersWrittenOnlyByTheirOperations := by
  unfold Obligations.RegistersWrittenOnlyByTheirOperations
  intro i s t h hini hdes
  cases i
  case setPixel x y c =>
    obtain ⟨-, ⟨-, -, rfl⟩ | rfl⟩ := execSetPixel_inv h
    · exact ⟨fun hp _ => absurd rfl (hp x y c), fun _ => rfl, fun _ => rfl, rfl⟩
    · exact ⟨fun _ _ => rfl, fun _ => rfl, fun _ => rfl, rfl⟩
  case clear c =>
    obtain ⟨-, rfl⟩ := execClear_inv h
    exact ⟨fun _ hc => absurd rfl (hc c), fun _ => rfl, fun _ => rfl, rfl⟩
  case setBorder c =>
    obtain ⟨-, rfl⟩ := execSetBorder_inv h
    exact ⟨fun _ _ => rfl, fun hb => absurd rfl (hb c), fun _ => rfl, rfl⟩
  case fullUpdate =>
    obtain ⟨-, rfl⟩ := execFullUpdate_inv h
    obtain ⟨hbuf, hborder, -, hemu⟩ := runSteps_sameStore (sequenceOf .fullUpdate) (startFullUpdate s)
    exact ⟨fun _ _ => hbuf, fun _ => hborder, fun hf => absurd rfl hf, hemu⟩
  all_goals
    obtain ⟨hbuf, hborder, hlfrt, hemu⟩ := exec_sameStore h hini hdes nofun nofun nofun nofun
    exact ⟨fun _ _ => hbuf, fun _ => hborder, fun _ => hlfrt, hemu⟩

/-! ### The invariant: a single sequencer step -/

@[simp] theorem advanceSeq_active (s : State) : (advanceSeq s).active =
    if following s.seq (sequenceOf s.active) = .none then .idle else s.active := by
  unfold advanceSeq
  split <;> simp_all

@[simp] theorem advanceSeq_rbuf (s : State) : (advanceSeq s).rbuf =
    if following s.seq (sequenceOf s.active) = .none then [] else s.rbuf := by
  unfold advanceSeq
  split <;> simp_all

/-- PSTATE and SEQ stay in step over a sequencer step, also the last one of its table, which leaves the block at
rest (R27, R163). -/
theorem phaseOk_following {a : Active} {q : SeqStep} {p : PState} (h : phaseOk a q p = true) (hq : q ≠ .none) :
    phaseOk (if following q (sequenceOf a) = .none then .idle else a) (following q (sequenceOf a))
      (actionPhase q p) = true := by
  cases a with
  | idle => simp_all [phaseOk]
  | initialise =>
    cases q <;> simp_all [phaseOk, following, sequenceOf, initSteps, actionPhase, restPhase]
  | fullUpdate =>
    cases q <;> simp_all [phaseOk, fullPhase, following, sequenceOf, tailSteps, actionPhase, restPhase]
  | regionUpdate x y w h =>
    cases q <;> simp_all [phaseOk, regionPhase, following, sequenceOf, initSteps, tailSteps, actionPhase, restPhase]

/-- The rectangle of an operation in progress has an extent inside the panel, so its bytes fit into RBUF (R28, R114). -/
theorem stagedBytes_le {s : State} (hs : Inv s) : (stagedBytes s).length ≤ Config.bufBytes := by
  cases ha : s.active with
  | regionUpdate x y w h =>
    have hr := hs.rect
    simp only [ha, rectOk, Bool.and_eq_true, Bool.not_eq_true', ← Bool.not_eq_true, exceedsBounds_iff] at hr
    have harea : w.toNat * h.toNat ≤ 600 * 448 := Nat.mul_le_mul (by omega) (by omega)
    simp only [stagedBytes, ha, regionBytes_length, Config.bufBytes_eq]
    omega
  | idle | initialise | fullUpdate =>
    simpa [stagedBytes, ha] using hs.rbuf_le

/-- RBUF stays within its largest use over a sequencer step (R28). -/
theorem seqAction_rbuf_le {s : State} (hs : Inv s) (q : SeqStep) : (seqAction q s).rbuf.length ≤ Config.bufBytes := by
  by_cases hq : q = .p3Data
  · rw [hq, seqAction_p3_rbuf]
    exact stagedBytes_le hs
  · rw [seqAction_rbuf hq]
    exact hs.rbuf_le

/-- No step of a sequence comes without an operation in progress. -/
theorem active_ne_idle {s : State} (hs : Inv s) (hq : s.seq ≠ .none) : s.active ≠ .idle := by
  intro ha
  have hp := hs.phase
  simp_all [phaseOk]

/-- Only initialize has steps without a context (R163, R224). -/
theorem initialise_of_uninitialized {a : Active} {q : SeqStep} (h : phaseOk a q .uninitialized = true)
    (hq : q ≠ .none) : a = .initialise := by
  cases a with
  | idle => simp_all [phaseOk]
  | initialise => rfl
  | fullUpdate => cases q <;> simp [phaseOk, fullPhase] at h
  | regionUpdate x y w h' => cases q <;> simp [phaseOk, regionPhase] at h

/-- Within a sequence a context exists or is being created. -/
theorem hasContext_of_seq {s : State} (hs : Inv s) (hq : s.seq ≠ .none) : hasContext s = true := by
  by_cases hp : s.pstate = .uninitialized
  · have hph := hs.phase
    rw [hp] at hph
    simp [hasContext, initialise_of_uninitialized hph hq]
  · simp [hasContext, hp]

/-- A sequencer step keeps the invariant. -/
theorem microStep_keepsInv {s : State} (hs : Inv s) (hq : s.seq ≠ .none) : Inv (microStep s) where
  buf_wf := by simpa [microStep_eq] using hs.buf_wf
  rbuf_le := by
    rw [microStep_eq, advanceSeq_rbuf]
    split
    · simp
    · exact seqAction_rbuf_le hs s.seq
  rbuf_rest := by
    have ha := active_ne_idle hs hq
    rw [microStep_eq, advanceSeq_active, advanceSeq_rbuf]
    split <;> simp [ha]
  phase := by
    simpa [microStep_eq, seqAction_pstate] using phaseOk_following hs.phase hq
  rect := by
    rw [microStep_eq, advanceSeq_active, seqAction_active]
    split
    · rfl
    · exact hs.rect
  lfrt_le := by
    intro _
    have hle := (hs.lfrt_le (hasContext_of_seq hs hq)).trans (microStep_clk s)
    simpa [microStep_eq] using hle

/-! ### The invariant: a whole sequence -/

/-- A sequence run to its end from where SEQ stands keeps the invariant: it is the single steps one after another
(R170). -/
theorem runSteps_keepsInv {s : State} {pre qs : List SeqStep} (hs : Inv s) (h : sequenceOf s.active = pre ++ qs)
    (hq : s.seq = qs.headD .none) : Inv (runSteps qs s) := by
  induction qs generalizing s pre with
  | nil => exact hs
  | cons q rest ih =>
    have hq : s.seq = q := hq
    have hnd := sequenceOf_nodup s.active
    rw [h] at hnd
    have hf : following q (sequenceOf s.active) = rest.headD .none := by rw [h, following_append hnd]
    have hne : s.seq ≠ .none := by
      intro hn
      exact none_notMem_sequenceOf s.active (by rw [h, ← hn, hq]; simp)
    have hm := microStep_keepsInv hs hne
    rw [runSteps_cons hq]
    cases rest with
    | nil => exact hm
    | cons q' rest =>
      have hne' : q' ≠ .none := by
        rintro rfl
        exact none_notMem_sequenceOf s.active (by rw [h]; simp)
      have hn : following s.seq (sequenceOf s.active) = q' := by rw [hq]; exact hf
      refine ih (pre := pre ++ [q]) hm ?_ ?_
      · simpa [microStep_eq, hn, hne'] using h
      · simpa [microStep_eq] using hn

/-- The whole sequence of the operation in progress, from its first step on. -/
theorem runSteps_sequenceOf_keepsInv {s : State} {a : Active} (hs : Inv s) (ha : s.active = a)
    (hq : s.seq = (sequenceOf a).headD .none) : Inv (runSteps (sequenceOf a) s) :=
  runSteps_keepsInv (pre := []) hs (by rw [ha]; rfl) hq

/-! ### The invariant: between operations -/

/-- Between operations no operation is in progress and PSTATE is at rest (R163). -/
theorem rest_of_seq_none {s : State} (hs : Inv s) (hq : s.seq = .none) :
    s.active = .idle ∧ restPhase s.pstate = true := by
  have hp := hs.phase
  rw [hq] at hp
  cases ha : s.active <;> simp_all [phaseOk, fullPhase, regionPhase, initSteps]

/-- Where a context exists between operations, LFRT is a reading of the past (R32). -/
theorem lfrt_le_of_ready {s : State} (hs : Inv s) (hr : Ready s) : s.lfrt ≤ s.env.clk :=
  hs.lfrt_le (by simp [hasContext, hr.2])

/-- An operation that returns with BUF in canonical form, PSTATE at rest and, if there is a context, LFRT a reading of
the past, leaves the invariant. -/
theorem complete_meetsInv {s : State} (r : Result) (hb : memWf s.buf = true) (hp : restPhase s.pstate = true)
    (hl : s.pstate ≠ .uninitialized → s.lfrt ≤ s.env.clk) : Inv (complete r s) where
  buf_wf := hb
  rbuf_le := Nat.zero_le _
  rbuf_rest := fun _ => rfl
  phase := hp
  rect := rfl
  lfrt_le := by
    intro hc
    have hu : s.pstate ≠ .uninitialized := by simpa [hasContext] using hc
    exact (hl hu).trans (complete_clk r s)

/-- An operation between operations that returns with the invariant's parts as they were. -/
theorem complete_keepsInv {s u : State} (r : Result) (hs : Inv s) (hr : s.seq = .none) (hb : memWf u.buf = true)
    (hp : u.pstate = s.pstate) (hl : u.lfrt = s.lfrt) (hc : s.env.clk ≤ u.env.clk) : Inv (complete r u) := by
  refine complete_meetsInv r hb (by rw [hp]; exact (rest_of_seq_none hs hr).2) ?_
  intro hu
  rw [hp] at hu
  rw [hl]
  exact (lfrt_le_of_ready hs ⟨hr, hu⟩).trans hc

/-- full_update starts its sequence with the invariant. -/
theorem startFullUpdate_meetsInv {s : State} (hs : Inv s) (hr : Ready s) : Inv (startFullUpdate s) where
  buf_wf := hs.buf_wf
  rbuf_le := hs.rbuf_le
  rbuf_rest := nofun
  phase := by
    have hp := (rest_of_seq_none hs hr.1).2
    simpa [phaseOk, fullPhase, restPhase, hr.2] using hp
  rect := rfl
  lfrt_le := fun _ => le_rfl

/-- region_update, its checks passed, starts its sequence with the invariant. -/
theorem startRegionUpdate_meetsInv {s : State} {x y w h : Coord} (hs : Inv s) (hr : Ready s)
    (hz : zeroExtent w h = false) (hb : exceedsBounds x y w h = false) : Inv (startRegionUpdate x y w h s) where
  buf_wf := hs.buf_wf
  rbuf_le := hs.rbuf_le
  rbuf_rest := nofun
  phase := by
    have hp := (rest_of_seq_none hs hr.1).2
    simpa [phaseOk, regionPhase, restPhase, hr.2] using hp
  rect := by simp [rectOk, hz, hb]
  lfrt_le := by
    intro _
    simpa using lfrt_le_of_ready hs hr

/-- initialize, no fault drawn, starts its sequence with the invariant: BUF is filled and LFRT is a reading (R35). -/
theorem startInitialise_meetsInv {s : State} (e : Bool) (hr : s.rbuf.length ≤ Config.bufBytes)
    (hp : s.pstate = .uninitialized) : Inv (startInitialise e s) where
  buf_wf := memFill_wf (byteOf Config.white Config.white)
  rbuf_le := hr
  rbuf_rest := nofun
  phase := by simp [phaseOk, initSteps, hp]
  rect := rfl
  lfrt_le := fun _ => le_rfl

/-- A hardware reset leaves the invariant, whatever the state was: there is no context then (R34, R270). -/
theorem hardwareReset_meetsInv (s : State) : Inv (hardwareReset s) where
  buf_wf := memOf_wf _
  rbuf_le := Nat.zero_le _
  rbuf_rest := fun _ => rfl
  phase := rfl
  rect := rfl
  lfrt_le := nofun

/-- The invariant does not depend on the host's later operations. -/
theorem setHost_keepsInv {s : State} (hs : Inv s) (rest : List HostInput) : Inv (setHost rest s) :=
  ⟨hs.buf_wf, hs.rbuf_le, hs.rbuf_rest, hs.phase, hs.rect, hs.lfrt_le⟩

/-- Time that passes keeps the invariant (R11). -/
theorem tick_keepsInv {s : State} (hs : Inv s) : Inv (tick s) :=
  ⟨hs.buf_wf, hs.rbuf_le, hs.rbuf_rest, hs.phase, hs.rect, fun hc => (hs.lfrt_le hc).trans (tick_clk s)⟩

/-! ### The invariant: every step -/

/-- Every instruction keeps the invariant: a host operation returns with its parts, or runs its sequence from a start
that meets it; a panel command is a sequencer step. -/
theorem exec_keepsInv {i : Instr} {s t : State} (hs : Inv s) (h : exec i s = .next t) : Inv t := by
  cases i
  case initialise e =>
    obtain ⟨hv, ⟨-, rfl⟩ | ⟨-, rfl⟩⟩ := execInitialise_inv h
    · exact complete_keepsInv _ hs hv.1 hs.buf_wf rfl rfl le_rfl
    · exact runSteps_sequenceOf_keepsInv (startInitialise_meetsInv e hs.rbuf_le hv.2) rfl rfl
  case destroy =>
    obtain ⟨-, rfl⟩ := execDestroy_inv h
    exact complete_meetsInv _ (memOf_wf _) rfl (absurd rfl)
  case clear c =>
    obtain ⟨hr, rfl⟩ := execClear_inv h
    exact complete_keepsInv _ hs hr.1 (memFill_wf _) rfl rfl le_rfl
  case setPixel x y c =>
    obtain ⟨hr, ⟨hx, hy, rfl⟩ | rfl⟩ := execSetPixel_inv h
    · exact complete_keepsInv _ hs hr.1 (nibWrite_wf _ (pixelIndex_lt hx hy) hs.buf_wf) rfl rfl le_rfl
    · exact complete_keepsInv _ hs hr.1 hs.buf_wf rfl rfl le_rfl
  case getPixel x y =>
    obtain ⟨hr, r, rfl⟩ := execGetPixel_inv h
    exact complete_keepsInv r hs hr.1 hs.buf_wf rfl rfl le_rfl
  case setBorder c =>
    obtain ⟨hr, rfl⟩ := execSetBorder_inv h
    exact complete_keepsInv _ hs hr.1 hs.buf_wf rfl rfl le_rfl
  case fullUpdate =>
    obtain ⟨hr, rfl⟩ := execFullUpdate_inv h
    exact runSteps_sequenceOf_keepsInv (startFullUpdate_meetsInv hs hr) rfl rfl
  case regionUpdate x y w h' =>
    obtain ⟨hr, hz, rfl | ⟨hb, -, rfl⟩⟩ := execRegionUpdate_inv h
    · exact complete_keepsInv _ hs hr.1 hs.buf_wf rfl rfl le_rfl
    · exact runSteps_sequenceOf_keepsInv (startRegionUpdate_meetsInv hs hr hz hb) rfl rfl
  case shouldFullRefresh =>
    obtain ⟨hr, r, rfl⟩ := execShouldFullRefresh_inv h
    exact complete_keepsInv r hs hr.1 hs.buf_wf rfl rfl (tick_clk s)
  case partialCount =>
    obtain ⟨hr, rfl⟩ := execPartialCount_inv h
    exact complete_keepsInv _ hs hr.1 hs.buf_wf rfl rfl le_rfl
  case extractRegion x y w h' =>
    obtain ⟨hr, r, rfl | rfl⟩ := execExtractRegion_inv h
    · exact complete_keepsInv r hs hr.1 hs.buf_wf rfl rfl le_rfl
    · exact complete_keepsInv r hs hr.1 (by simpa using hs.buf_wf) (by simp) (by simp) (by simp)
  case exportImage rest => cases h
  all_goals
    obtain ⟨hc, -, rfl⟩ := execPanel_inv rfl h
    exact microStep_keepsInv hs (seq_ne_none_of_commandAt hc)

/-- A sequencer step that sends no command comes within a sequence (R27). -/
theorem seq_ne_none_of_internal {s : State} (h : fetch s = .internal) : s.seq ≠ .none := by
  intro hq
  rw [fetch, if_pos hq] at h
  unfold fetchHost at h
  split at h
  · cases h
  · cases h
  · split at h <;> cases h

/-- Fetching an instruction keeps the invariant. -/
theorem fetch_run_keepsInv {s s1 : State} {i : Instr} (hs : Inv s) (h : fetch s = .run i s1) : Inv s1 := by
  obtain ⟨-, w, rest, -, -, rfl⟩ | ⟨-, -, rfl⟩ := fetch_run_inv h
  · exact setHost_keepsInv hs rest
  · exact hs

/-- Settles O49: each thing a step can be keeps the invariant. -/
theorem stepKeepsInvariant : Obligations.StepKeepsInvariant := by
  unfold Obligations.StepKeepsInvariant
  intro s t hs h
  obtain ⟨i, s1, hf, he⟩ | ⟨hf, rfl⟩ | ⟨s1, -, rfl⟩ | ⟨-, rfl⟩ := step_inv h
  · exact exec_keepsInv (fetch_run_keepsInv hs hf) he
  · exact microStep_keepsInv hs (seq_ne_none_of_internal hf)
  · exact hardwareReset_meetsInv s1
  · exact tick_keepsInv hs

/-- Settles O48: BUF lists no byte, nothing is in progress, and there is no context. -/
theorem resetMeetsInvariant : Obligations.ResetMeetsInvariant :=
  ⟨rfl, Nat.zero_le _, fun _ => rfl, rfl, rfl, nofun⟩

end Sys2Proof.Machine

namespace Sys2Proof.Machine

open Sys2Proof.Safety

/-! ### The address decoder (R51) and NibWrite (R65) -/

/-- Every index is the index of the pixel in column `i mod WIDTH` and row `i div WIDTH` (R51). -/
theorem pixelIndex_mod_div (i : Nat) : pixelIndex (i % 600) (i / 600) = i := Nat.div_add_mod' i 600

/-- Byte address and nibble select are the quotient and the remainder of the index by two (R51). -/
theorem byteAddr_lowSelect_iff {i a : Nat} {low : Bool} :
    byteAddr i = a ∧ lowSelect i = low ↔ i = 2 * a + low.toNat := by
  have hlow : lowSelect i = true ↔ i % 2 = 1 := beq_iff_eq
  cases low <;> simp only [byteAddr, ← Bool.not_eq_true, hlow, Bool.toNat_true, Bool.toNat_false] <;> omega

/-- Settles O21: the pixel of byte `a` and select `low` is the one with index `2 * a + low`, and an index has one pixel. -/
theorem addressDecoderBijective : Obligations.AddressDecoderBijective := by
  unfold Obligations.AddressDecoderBijective
  constructor
  · intro x y hx hy
    have hi := pixelIndex_lt hx hy
    simp only [byteAddr, Config.npix_eq] at *
    omega
  · intro a low ha
    have hlow := low.toNat_le
    have hx : (2 * a + low.toNat) % 600 < 600 := Nat.mod_lt _ (by decide)
    have hi := pixelIndex_mod_div (2 * a + low.toNat)
    obtain ⟨hbyte, hsel⟩ := byteAddr_lowSelect_iff.2 hi
    refine ⟨_, _, ⟨hx, by omega, hbyte, hsel⟩, ?_⟩
    intro x' y' hx' _ hbyte' hsel'
    have hi' := byteAddr_lowSelect_iff.1 ⟨hbyte', hsel'⟩
    exact pixelIndex_inj hx hx' (hi'.trans hi.symm)

/-- Settles O22, from what NibRead returns after NibWrite. -/
theorem nibbleWriteDoesNotAlias : Obligations.NibbleWriteDoesNotAlias := by
  unfold Obligations.NibbleWriteDoesNotAlias
  intro m idx c hm _
  constructor
  · rw [nibRead_nibWrite hm, if_pos rfl]
  · intro j _ hj
    rw [nibRead_nibWrite hm, if_neg hj]

/-! ### One operation at a time (R62) -/

/-- Settles O40: initialize tests SEQ itself, every other operation by its admission. -/
theorem overlappingOperationRefused : Obligations.OverlappingOperationRefused := by
  unfold Obligations.OverlappingOperationRefused
  intro s i hs hc hx
  cases i <;> simp only [commandByte, reduceCtorEq] at hc
  case initialise e => exact if_pos hs
  case exportImage rest => exact absurd rfl (hx rest)
  all_goals exact ifAdmitted_busy hs _

/-! ### What a single sequencer step does -/

/-- A sequencer step keeps BUF, the registers but PSTATE, and the host's later operations (R27). -/
theorem microStep_stepKeeps (s : State) : StepKeeps s (microStep s) := by
  simp [StepKeeps, SameBuffer, microStep_eq]

/-- A sequencer step appends the events of the step SEQ names (R161, R162). -/
theorem microStep_appended (s : State) : Appended s (microStep s) (actionEvents s.seq s) := by
  simp [Appended, microStep_eq, seqAction_trace]

/-- SEQ goes on to the next step of the table (R27). -/
theorem microStep_seq (s : State) : (microStep s).seq = following s.seq (sequenceOf s.active) := by
  simp [microStep_eq]

/-- A sequencer step leaves the PSTATE of the step SEQ names (R163). -/
theorem microStep_pstate (s : State) : (microStep s).pstate = actionPhase s.seq s.pstate := by
  simp [microStep_eq, seqAction_pstate]

/-- The operation stays in progress while its table goes on. -/
theorem microStep_active {s : State} (h : following s.seq (sequenceOf s.active) ≠ .none) :
    (microStep s).active = s.active := by
  simp [microStep_eq, h]

/-- What the step SEQ names leaves in RBUF stays there while the table goes on (R28). -/
theorem microStep_rbuf {s : State} (h : following s.seq (sequenceOf s.active) ≠ .none) :
    (microStep s).rbuf = (seqAction s.seq s).rbuf := by
  simp [microStep_eq, h]

/-! ### DATA_START (R56, R167, R169) -/

/-- A command with data is the command event and one data event (R161). -/
theorem stepEvents_data (b : Byte) {bs : List Byte} (h : 0 < bs.length) : stepEvents b bs = [.cmd b, .dat bs] := by
  rw [stepEvents, if_neg (List.ne_nil_of_length_pos h)]

/-- DATA_START at step F0 sends the whole of BUF and goes on to the refresh tail (R56, R167). -/
theorem exec_dataStart_full {s : State} (hq : s.seq = .f0Data) (ha : s.active = .fullUpdate) :
    ∃ t, exec .dataStart s = .next t ∧ Appended s t [.cmd Config.cmdDataStart, .dat (memDump s.buf)]
      ∧ t.seq = .t1PowerOn ∧ t.active = s.active ∧ t.pstate = s.pstate ∧ t.rbuf = s.rbuf ∧ StepKeeps s t := by
  have hexec : exec .dataStart s = .next (microStep s) := exec_commandAt (by rw [hq]; rfl) (by simp [hq])
  have hnext : following s.seq (sequenceOf s.active) = .t1PowerOn := by rw [hq, ha]; rfl
  have hgo : following s.seq (sequenceOf s.active) ≠ .none := by simp [hnext]
  have hevents := microStep_appended s
  rw [hq, actionEvents, stepEvents_data _ (by simp [memDump])] at hevents
  refine ⟨microStep s, hexec, hevents, (microStep_seq s).trans hnext, microStep_active hgo, ?_, ?_,
    microStep_stepKeeps s⟩
  · rw [microStep_pstate, hq]; rfl
  · rw [microStep_rbuf hgo, seqAction_rbuf (by simp [hq])]

/-- DATA_START at step P3 stages the bytes of a rectangle inside the panel, sends them and goes on to the refresh tail
(R169). -/
theorem exec_dataStart_region {s : State} {x y w h : Coord} (hq : s.seq = .p3Data)
    (ha : s.active = .regionUpdate x y w h) (hw : 1 ≤ w.toNat) (hh : 1 ≤ h.toNat) (hx : x.toNat + w.toNat ≤ 600)
    (hy : y.toNat + h.toNat ≤ 448) :
    ∃ t, exec .dataStart s = .next t ∧ Appended s t [.cmd Config.cmdDataStart, .dat t.rbuf]
      ∧ t.rbuf = regionBytes s.buf x.toNat y.toNat w.toNat h.toNat s.env.pad
      ∧ t.seq = .t1PowerOn ∧ t.active = s.active ∧ t.pstate = s.pstate ∧ StepKeeps s t := by
  have hexec : exec .dataStart s = .next (microStep s) :=
    exec_commandAt (by rw [hq]; rfl) (by intro _; rw [ha]; exact exceedsBounds_false hx hy)
  have hnext : following s.seq (sequenceOf s.active) = .t1PowerOn := by rw [hq, ha]; rfl
  have hgo : following s.seq (sequenceOf s.active) ≠ .none := by simp [hnext]
  have hstaged : stagedBytes s = regionBytes s.buf x.toNat y.toNat w.toNat h.toNat s.env.pad := by
    simp only [stagedBytes, ha]
  have hrbuf : (microStep s).rbuf = stagedBytes s := by rw [microStep_rbuf hgo, hq, seqAction_p3_rbuf]
  have hlen : 0 < (stagedBytes s).length := by
    have harea : 0 < w.toNat * h.toNat := Nat.mul_pos hw hh
    rw [hstaged, regionBytes_length]
    omega
  have hevents := microStep_appended s
  rw [hq, actionEvents, stepEvents_data _ hlen, ← hrbuf] at hevents
  refine ⟨microStep s, hexec, hevents, hrbuf.trans hstaged, (microStep_seq s).trans hnext, microStep_active hgo, ?_,
    microStep_stepKeeps s⟩
  rw [microStep_pstate, hq]; rfl

/-- Settles O44: step F0 sends BUF, step P3 the rectangle's bytes, whose nibbles are its pixels. -/
theorem dataStartSendsPayload : Obligations.DataStartSendsPayload := by
  unfold Obligations.DataStartSendsPayload
  constructor
  · intro s hq ha
    exact exec_dataStart_full hq ha
  · intro s x y w h hq ha hw hh hx hy
    obtain ⟨t, hexec, hevents, hrbuf, hrest⟩ := exec_dataStart_region hq ha hw hh hx hy
    refine ⟨t, hexec, hevents, ?_, ?_, hrest⟩
    · rw [hrbuf, regionBytes_length]
    · intro i j hi hj
      rw [hrbuf, nibbleAt_regionBytes _ _ _ _ _ _ hi hj, pixel]

/-! ### The one fault (R54) -/

/-- DATA_START at step P3 faults when the staged rectangle leaves BUF (log entry 23). -/
theorem exec_dataStart_outside {s : State} (hq : s.seq = .p3Data) (ho : stagedOutside s.active = true) :
    exec .dataStart s = .fault .outsideBuffer := by
  rw [exec, execDataStart, if_neg (by simp [hq]), if_pos (by simp [hq, ho])]

/-- Settles O47: the rectangle of the region update in progress is the one staged. -/
theorem stagedRectangleOutsideFaults : Obligations.StagedRectangleOutsideFaults := by
  unfold Obligations.StagedRectangleOutsideFaults
  intro s x y w h hq ha ho
  exact exec_dataStart_outside hq (by rw [ha]; exact (exceedsBounds_iff ..).2 ho)

/-- An instruction that faults is DATA_START at step P3 with a staged rectangle that leaves BUF (R54). -/
theorem exec_fault_inv {i : Instr} {s : State} {r : Fault} (h : exec i s = .fault r) :
    i = .dataStart ∧ s.seq = .p3Data ∧ stagedOutside s.active = true := by
  cases i
  case dataStart =>
    rw [exec, execDataStart] at h
    split at h
    · cases h
    · split at h
      · next ho => exact ⟨rfl, by simpa using ho⟩
      · exact absurd h atStep_fault
  case initialise e =>
    rw [exec, execInitialise] at h
    split at h
    · cases h
    · split at h <;> cases h
  case exportImage rest => cases h
  case destroy | clear | fullUpdate | shouldFullRefresh | partialCount => cases ifAdmitted_fault h
  case setPixel | getPixel | setBorder =>
    have hrun := ifAdmitted_fault h
    split at hrun <;> cases hrun
  case regionUpdate x y w h' =>
    have hrun := ifAdmitted_fault h
    split at hrun
    · cases hrun
    · split at hrun
      · cases hrun
      · split at hrun <;> cases hrun
  case extractRegion x y w h' =>
    have hrun := ifAdmitted_fault h
    split at hrun
    · cases hrun
    · split at hrun <;> cases hrun
  all_goals exact absurd h atStep_fault

/-- A step that faults has run the instruction fetched. -/
theorem step_fault_inv {s : State} {r : Fault} (h : step s = .fault r) :
    ∃ i s1, fetch s = .run i s1 ∧ exec i s1 = .fault r := by
  unfold step at h
  split at h
  case h_1 i s1 hf => exact ⟨i, s1, hf, h⟩
  all_goals cases h

/-- The rectangle of an operation in progress lies in BUF (R168). -/
theorem stagedOutside_false {s : State} (hs : Inv s) : stagedOutside s.active = false := by
  have hr := hs.rect
  cases ha : s.active with
  | regionUpdate x y w h =>
    rw [ha, rectOk, Bool.and_eq_true, Bool.not_eq_true', Bool.not_eq_true'] at hr
    exact hr.2
  | idle | initialise | fullUpdate => rfl

/-- Settles O50: the state an instruction is run in meets the invariant, whose rectangle is not one that faults. -/
theorem invariantNeverFaults : Obligations.InvariantNeverFaults := by
  unfold Obligations.InvariantNeverFaults
  intro s r hs h
  obtain ⟨i, s1, hf, he⟩ := step_fault_inv h
  obtain ⟨-, -, ho⟩ := exec_fault_inv he
  rw [stagedOutside_false (fetch_run_keepsInv hs hf)] at ho
  cases ho

end Sys2Proof.Machine

namespace Sys2Proof

/-! ### Decoding and encoding (R81 to R85) -/

/-- A word of opcode 0x08 is the reserved row's, whatever its other bits (R85). -/
theorem decode_opcode8 {w : HostWord} (h : fieldOp w = 0x08) :
    decode w = .ok (.exportImage (w.extractLsb' 0 64)) := by
  simp [decode, h]

/-- The host word of a host operation decodes to the operation. -/
theorem decode_of_encode {i : Instr} {w : HostWord} (h : encode i = some w) : decode w = .ok i := by
  cases i <;> cases h
  case initialise emulated => cases emulated <;> rfl
  case exportImage rest => rw [decode_opcode8 (fieldOp_reserved rest), BitVec.extractLsb'_append_eq_right]
  all_goals simp [decode, requireZero]

/-- The must-be-zero test passes exactly when it holds. -/
theorem requireZero_eq_ok_iff {op : BitVec 8} {zero : Bool} {i j : Instr} :
    requireZero op zero i = .ok j ↔ zero = true ∧ i = j := by
  refine ⟨requireZero_ok, ?_⟩
  rintro ⟨rfl, rfl⟩
  rfl

/-- A field whose bits above bit 0 are zero is the field of the flag in bit 0 (format I of R82). -/
theorem flagField_getLsbD {f : BitVec 16} (h : f.extractLsb' 1 15 = 0) :
    (if f.getLsbD 0 then 1 else 0 : BitVec 16) = f := by
  have hhigh : f.toNat / 2 % 2 ^ 15 = 0 := by
    simpa [BitVec.extractLsb'_toNat, Nat.shiftRight_eq_div_pow] using congrArg BitVec.toNat h
  have hlow : f.getLsbD 0 = true ↔ f.toNat % 2 = 1 := by simp [BitVec.getLsbD]
  have hf := f.isLt
  apply BitVec.eq_of_toNat_eq
  simp only [hlow]
  split <;> simp <;> omega

/-- A word of the reserved opcode is that opcode and the rest (R85). -/
theorem encode_exportImage (a b c d : BitVec 16) :
    encode (.exportImage ((hostWord 0x08 a b c d).extractLsb' 0 64)) = some (hostWord 0x08 a b c d) := by
  refine congrArg some (BitVec.eq_of_toNat_eq ?_)
  have hop : (0x08 : BitVec 8).toNat = 8 := rfl
  rw [toNat_append_eq, BitVec.extractLsb'_toNat, hostWord_toNat, hop, Nat.shiftRight_zero]
  omega

/-- A host word that decodes is the word of what it decodes to: the must-be-zero test of each format covers every bit that
is no operand's (R82). -/
theorem encode_of_decode {w : HostWord} {i : Instr} (h : decode w = .ok i) : encode i = some w := by
  rw [← hostWord_fields w] at h ⊢
  generalize fieldOp w = op, fieldA w = a, fieldB w = b, fieldC w = c, fieldD w = d at h ⊢
  simp only [decode, fieldOp_hostWord, fieldA_hostWord, fieldB_hostWord, fieldC_hostWord, fieldD_hostWord] at h
  have opcode {n : Nat} (hn : op.toNat = n) : op = BitVec.ofNat 8 n := by simp [← hn]
  split at h <;> simp only [requireZero_eq_ok_iff, Bool.and_eq_true, beq_iff_eq, Except.ok.injEq, reduceCtorEq] at h
  -- Formats I, N, C, Q, P, R in turn, then the reserved opcode.
  case h_1 hn =>
    obtain ⟨⟨⟨⟨ha, rfl⟩, rfl⟩, rfl⟩, rfl⟩ := h
    rw [encode, flagField_getLsbD ha, opcode hn]
    rfl
  case h_2 hn | h_7 hn | h_10 hn | h_11 hn =>
    obtain ⟨⟨⟨⟨rfl, rfl⟩, rfl⟩, rfl⟩, rfl⟩ := h
    rw [opcode hn]
    rfl
  case h_3 hn | h_6 hn =>
    obtain ⟨⟨⟨⟨ha, rfl⟩, rfl⟩, rfl⟩, rfl⟩ := h
    rw [encode, colorField_lowByte ha, opcode hn]
    rfl
  case h_4 hn =>
    obtain ⟨⟨hc, rfl⟩, rfl⟩ := h
    rw [encode, colorField_lowByte hc, opcode hn]
    rfl
  case h_5 hn =>
    obtain ⟨⟨rfl, rfl⟩, rfl⟩ := h
    rw [opcode hn]
    rfl
  case h_8 hn | h_12 hn =>
    rw [← h, opcode hn]
    rfl
  case h_9 hn =>
    rw [← h, opcode hn]
    exact encode_exportImage a b c d

/-- Settles O1: the decoder reads every operand back from its field. -/
theorem decodeOfEncode : Obligations.DecodeOfEncode := by
  unfold Obligations.DecodeOfEncode
  intro i w h
  exact decode_of_encode h

/-- Settles O2: every bit of the word is an operand's, the opcode's, or zero. -/
theorem encodeOfDecode : Obligations.EncodeOfDecode := by
  unfold Obligations.EncodeOfDecode
  intro w i h
  exact encode_of_decode h

/-! ### The table of R84 -/

/-- The table of R84, each match and mask written as its five fields (R81). -/
theorem hostTable_fields : hostTable =
    [ ⟨"initialize", hostWord 0x00 0 0 0 0,
        hostWord (.allOnes 8) 0xFFFE (.allOnes 16) (.allOnes 16) (.allOnes 16)⟩,
      ⟨"destroy", hostWord 0x01 0 0 0 0,
        hostWord (.allOnes 8) (.allOnes 16) (.allOnes 16) (.allOnes 16) (.allOnes 16)⟩,
      ⟨"clear", hostWord 0x02 0 0 0 0,
        hostWord (.allOnes 8) 0xFF00 (.allOnes 16) (.allOnes 16) (.allOnes 16)⟩,
      ⟨"set_pixel", hostWord 0x03 0 0 0 0, hostWord (.allOnes 8) 0 0 0xFF00 (.allOnes 16)⟩,
      ⟨"get_pixel", hostWord 0x04 0 0 0 0, hostWord (.allOnes 8) 0 0 (.allOnes 16) (.allOnes 16)⟩,
      ⟨"set_border", hostWord 0x05 0 0 0 0,
        hostWord (.allOnes 8) 0xFF00 (.allOnes 16) (.allOnes 16) (.allOnes 16)⟩,
      ⟨"full_update", hostWord 0x06 0 0 0 0,
        hostWord (.allOnes 8) (.allOnes 16) (.allOnes 16) (.allOnes 16) (.allOnes 16)⟩,
      ⟨"region_update", hostWord 0x07 0 0 0 0, hostWord (.allOnes 8) 0 0 0 0⟩,
      ⟨"export_image", hostWord 0x08 0 0 0 0, hostWord (.allOnes 8) 0 0 0 0⟩,
      ⟨"should_full_refresh", hostWord 0x09 0 0 0 0,
        hostWord (.allOnes 8) (.allOnes 16) (.allOnes 16) (.allOnes 16) (.allOnes 16)⟩,
      ⟨"partial_count", hostWord 0x0A 0 0 0 0,
        hostWord (.allOnes 8) (.allOnes 16) (.allOnes 16) (.allOnes 16) (.allOnes 16)⟩,
      ⟨"extract_region", hostWord 0x0B 0 0 0 0, hostWord (.allOnes 8) 0 0 0 0⟩ ] := by
  decide

/-- A word is its five fields, so it matches a row exactly when each field does. -/
theorem and_eq_iff_fields {w m p : HostWord} : w &&& m = p ↔
    fieldOp w &&& fieldOp m = fieldOp p ∧ fieldA w &&& fieldA m = fieldA p ∧ fieldB w &&& fieldB m = fieldB p
      ∧ fieldC w &&& fieldC m = fieldC p ∧ fieldD w &&& fieldD m = fieldD p := by
  constructor
  · rintro rfl
    simp only [fieldOp, fieldA, fieldB, fieldC, fieldD, BitVec.extractLsb'_and, and_self]
  · rintro ⟨hop, ha, hb, hc, hd⟩
    rw [← hostWord_fields p, ← hop, ← ha, ← hb, ← hc, ← hd, ← hostWord_fields (w &&& m)]
    simp only [fieldOp, fieldA, fieldB, fieldC, fieldD, BitVec.extractLsb'_and]

/-- No two rows of the table have one mnemonic. -/
theorem hostTable_mnemonic_inj {r q : HostRow} (hr : r ∈ hostTable) (hq : q ∈ hostTable)
    (h : r.mnemonic = q.mnemonic) : r = q :=
  List.inj_on_of_nodup_map (by decide : (hostTable.map HostRow.mnemonic).Nodup) hr hq h

/-- A flag's field meets the mask of format I (R82). -/
@[simp] theorem flagField_and_mask (e : Bool) : (if e then 1#16 else 0#16) &&& 0xFFFE#16 = 0#16 := by
  cases e <;> rfl

/-- A colour's field meets the mask of format C and Q (R82). -/
@[simp] theorem colorField_and_mask (c : Byte) : colorField c &&& 0xFF00#16 = 0#16 := by
  have hmask : 0xFF00#16 = BitVec.allOnes 8 ++ 0#8 := rfl
  rw [hmask, colorField, BitVec.and_append]
  simp

/-- The word of a host operation matches the row of its mnemonic. -/
theorem encode_matches_row {i : Instr} {w : HostWord} (h : encode i = some w) :
    ∃ r ∈ hostTable, r.mnemonic = mnemonic i ∧ w &&& r.mask = r.pattern := by
  rw [hostTable_fields]
  cases i <;> cases h
  case exportImage rest =>
    rw [← hostWord_fields (0x08 ++ rest), fieldOp_reserved]
    simp [mnemonic, and_eq_iff_fields]
  all_goals simp [mnemonic, and_eq_iff_fields]

/-- A field that meets the mask of format I is the field of a flag (R82). -/
theorem exists_flagField {f : BitVec 16} (h : f &&& 0xFFFE#16 = 0#16) :
    ∃ e : Bool, (if e then 1 else 0 : BitVec 16) = f := by
  refine ⟨f.getLsbD 0, flagField_getLsbD ?_⟩
  have h' := congrArg (BitVec.extractLsb' 1 15) h
  have hmask : (0xFFFE#16).extractLsb' 1 15 = BitVec.allOnes 15 := rfl
  rwa [BitVec.extractLsb'_and, hmask, BitVec.and_allOnes] at h'

/-- A field that meets the mask of format C or Q is the field of a colour (R82). -/
theorem exists_colorField {f : BitVec 16} (h : f &&& 0xFF00#16 = 0#16) : ∃ c, colorField c = f := by
  refine ⟨lowByte f, colorField_lowByte ?_⟩
  have h' := congrArg highByte h
  have hmask : (0xFF00#16).extractLsb' 8 8 = BitVec.allOnes 8 := rfl
  rwa [highByte, BitVec.extractLsb'_and, hmask, BitVec.and_allOnes] at h'

/-- A word that matches a row is the word of a host operation with the row's mnemonic. -/
theorem exists_encode_of_row {r : HostRow} {w : HostWord} (hr : r ∈ hostTable) (h : w &&& r.mask = r.pattern) :
    ∃ i, encode i = some w ∧ mnemonic i = r.mnemonic := by
  rw [← hostWord_fields w] at h ⊢
  generalize fieldOp w = op, fieldA w = a, fieldB w = b, fieldC w = c, fieldD w = d at h ⊢
  rw [hostTable_fields] at hr
  simp only [List.mem_cons, List.not_mem_nil, or_false] at hr
  rcases hr with rfl | rfl | rfl | rfl | rfl | rfl | rfl | rfl | rfl | rfl | rfl | rfl <;>
    simp only [and_eq_iff_fields, fieldOp_hostWord, fieldA_hostWord, fieldB_hostWord, fieldC_hostWord, fieldD_hostWord,
      BitVec.and_allOnes, BitVec.and_zero, BitVec.ofNat_eq_ofNat, true_and, and_true] at h
  · obtain ⟨rfl, ha, rfl, rfl, rfl⟩ := h
    obtain ⟨e, rfl⟩ := exists_flagField ha
    exact ⟨.initialise e, rfl, rfl⟩
  · obtain ⟨rfl, rfl, rfl, rfl, rfl⟩ := h
    exact ⟨.destroy, rfl, rfl⟩
  · obtain ⟨rfl, ha, rfl, rfl, rfl⟩ := h
    obtain ⟨color, rfl⟩ := exists_colorField ha
    exact ⟨.clear color, rfl, rfl⟩
  · obtain ⟨rfl, hc, rfl⟩ := h
    obtain ⟨color, rfl⟩ := exists_colorField hc
    exact ⟨.setPixel a b color, rfl, rfl⟩
  · obtain ⟨rfl, rfl, rfl⟩ := h
    exact ⟨.getPixel a b, rfl, rfl⟩
  · obtain ⟨rfl, ha, rfl, rfl, rfl⟩ := h
    obtain ⟨color, rfl⟩ := exists_colorField ha
    exact ⟨.setBorder color, rfl, rfl⟩
  · obtain ⟨rfl, rfl, rfl, rfl, rfl⟩ := h
    exact ⟨.fullUpdate, rfl, rfl⟩
  · subst h
    exact ⟨.regionUpdate a b c d, rfl, rfl⟩
  · subst h
    exact ⟨.exportImage _, encode_exportImage a b c d, rfl⟩
  · obtain ⟨rfl, rfl, rfl, rfl, rfl⟩ := h
    exact ⟨.shouldFullRefresh, rfl, rfl⟩
  · obtain ⟨rfl, rfl, rfl, rfl, rfl⟩ := h
    exact ⟨.partialCount, rfl, rfl⟩
  · subst h
    exact ⟨.extractRegion a b c d, rfl, rfl⟩

/-- Settles O3: a word that decodes is an encoding, and an encoding matches its own row, the only one of its mnemonic. -/
theorem decodeFollowsMatchMask : Obligations.DecodeFollowsMatchMask := by
  unfold Obligations.DecodeFollowsMatchMask
  intro w r hr
  constructor
  · intro h
    obtain ⟨i, henc, hname⟩ := exists_encode_of_row hr h
    exact ⟨i, decode_of_encode henc, hname⟩
  · rintro ⟨i, hdec, hname⟩
    obtain ⟨q, hq, hqname, hmatch⟩ := encode_matches_row (encode_of_decode hdec)
    obtain rfl := hostTable_mnemonic_inj hr hq (hname.symm.trans hqname.symm)
    exact hmatch

/-- Only the reserved row has the mnemonic export_image (R84). -/
theorem eq_exportImage_of_mnemonic {i : Instr} (h : mnemonic i = "export_image") : ∃ rest, i = .exportImage rest := by
  cases i
  case exportImage rest => exact ⟨rest, rfl⟩
  all_goals simp [mnemonic] at h

/-- A word that matches no row but the reserved one and decodes has the reserved opcode (R85). -/
theorem fieldOp_of_no_row {w : HostWord} {i : Instr}
    (hno : ∀ r ∈ hostTable, r.mnemonic ≠ "export_image" → w &&& r.mask ≠ r.pattern) (hd : decode w = .ok i) :
    fieldOp w = 0x08 := by
  have henc := encode_of_decode hd
  obtain ⟨r, hr, hname, hmatch⟩ := encode_matches_row henc
  have hexport : r.mnemonic = "export_image" := not_not.1 fun hne => hno r hr hne hmatch
  obtain ⟨rest, rfl⟩ := eq_exportImage_of_mnemonic (hname.symm.trans hexport)
  cases henc
  exact fieldOp_reserved rest

/-- A table row's 72-bit word that is the word of a host operation decodes to it. -/
theorem decodeTableWord_of_encode {n : Nat} {i : Instr} (h : encode i = some (BitVec.ofNat 72 n)) :
    decodeTableWord 72 n = some i := by
  rw [decodeTableWord, if_pos rfl, decode_of_encode h]
  rfl

/-- Settles O7: each word is the encoding of its operation; the last one has a must-be-zero bit set. -/
theorem specWordsDecode : Obligations.SpecWordsDecode := by
  unfold Obligations.SpecWordsDecode
  refine ⟨?_, ?_, ?_, ?_, ?_, ?_, ?_, ?_, ?_, ?_, by decide⟩
  all_goals exact decodeTableWord_of_encode rfl

/-! ### The command bytes (R88) -/

/-- What has a command byte is one of the seventeen panel commands. -/
theorem mem_panelCommands {i : Instr} {b : Byte} (h : commandByte i = some b) : i ∈ panelCommands := by
  cases i
  case initialise | destroy | clear | setPixel | getPixel | setBorder | fullUpdate | regionUpdate | shouldFullRefresh |
    partialCount | extractRegion | exportImage => cases h
  all_goals decide

/-- The panel commands with their bytes. -/
theorem mem_commandBytes_iff {i : Instr} {b : Byte} :
    (i, b) ∈ panelCommands.filterMap (fun j => (commandByte j).map (j, ·)) ↔ commandByte i = some b := by
  rw [List.mem_filterMap]
  constructor
  · rintro ⟨j, -, hj⟩
    obtain ⟨c, hc, heq⟩ := Option.map_eq_some_iff.1 hj
    cases heq
    exact hc
  · intro h
    exact ⟨i, mem_panelCommands h, by rw [h]; rfl⟩

/-- The commands a byte can stand for are those whose byte it is (R88). -/
theorem mem_commandsOf_iff {i : Instr} {b : Byte} : i ∈ commandsOf b ↔ commandByte i = some b := by
  rw [commandsOf, List.mem_filter, beq_iff_eq]
  exact and_iff_right_of_imp mem_panelCommands

/-- Settles O6: a byte's candidates are the panel commands with that byte, and the decoder takes the first of them. -/
theorem commandByteCandidates : Obligations.CommandByteCandidates := by
  unfold Obligations.CommandByteCandidates
  refine ⟨fun i b => mem_commandBytes_iff.symm, fun i b => mem_commandsOf_iff, ?_, ?_⟩
  · intro b i h
    exact mem_commandsOf_iff.1 (List.mem_of_head? h)
  · intro b i h
    have hne : commandsOf b ≠ [] := List.ne_nil_of_mem (mem_commandsOf_iff.2 h)
    exact Option.isSome_iff_exists.1 (List.isSome_head?.2 hne)

end Sys2Proof

namespace Sys2Proof.Machine

/-! ### The host's next word (R60, R81, R85) -/

/-- A host word that decodes is run, taken out of `host`, when no operation is in progress. -/
theorem step_hostWord {s : State} {w : HostWord} {rest : List HostInput} {i : Instr} (hq : s.seq = .none)
    (hh : s.host = .word w :: rest) (hd : decode w = .ok i) : step s = exec i (setHost rest s) := by
  simp only [step, fetch, if_pos hq, fetchHost, hh, hd]

/-- A host word that does not decode is refused (R85). -/
theorem step_reservedWord {s : State} {w : HostWord} {rest : List HostInput} {e : DecodeError} (hq : s.seq = .none)
    (hh : s.host = .word w :: rest) (hd : decode w = .error e) : step s = .refused (.reservedWord w) := by
  simp only [step, fetch, if_pos hq, fetchHost, hh, hd]

/-- The reserved row has no meaning (R85, R225). -/
theorem exec_exportImage (rest : BitVec 64) (s : State) : exec (.exportImage rest) s = .refused .reservedOperation :=
  rfl

/-- A host word of opcode 0x08 is refused (R85, R225). -/
theorem step_opcode8 {s : State} {w : HostWord} {rest : List HostInput} (hq : s.seq = .none)
    (hh : s.host = .word w :: rest) (hop : fieldOp w = 0x08) : step s = .refused .reservedOperation := by
  rw [step_hostWord hq hh (decode_opcode8 hop), exec_exportImage]

/-- Settles O8: with SEQ = NONE the host's next word is what is fetched. -/
theorem stepRunsHostOperation : Obligations.StepRunsHostOperation := by
  unfold Obligations.StepRunsHostOperation
  intro s w rest i hq hh hd
  exact step_hostWord hq hh hd

/-- Settles O5: every word of opcode 0x08 decodes to the reserved row, which `exec` refuses. -/
theorem exportImageRefused : Obligations.ExportImageRefused :=
  ⟨fun _ _ _ hq hh hop => step_opcode8 hq hh hop, exec_exportImage⟩

/-- Settles O4: a word without a row does not decode, unless it has the reserved opcode. -/
theorem reservedWordRefused : Obligations.ReservedWordRefused := by
  unfold Obligations.ReservedWordRefused
  intro s w rest hq hh hno
  by_cases hop : w.extractLsb' 64 8 = 0x08
  · rw [if_pos hop]
    exact step_opcode8 hq hh hop
  · rw [if_neg hop]
    cases hd : decode w with
    | error e => exact step_reservedWord hq hh hd
    | ok i => exact absurd (fieldOp_of_no_row hno hd) hop

end Sys2Proof.Machine

namespace Sys2Proof.Machine

open Sys2Proof.Safety

/-! ### Pixels in BUF (R51 to R53) -/

/-- A row has an even number of pixels, so the column alone tells the half of the byte (R51). -/
theorem pixelIndex_mod_two (x y : Nat) : pixelIndex x y % 2 = x % 2 := by
  simp only [pixelIndex, Config.width_eq]
  omega

/-- A pixel is bits [7:4] of its byte in an even column and bits [3:0] in an odd one (R51, R52). -/
theorem pixel_toNat (s : State) (x y : Nat) :
    (pixel s x y).toNat = if x % 2 = 0 then (memRead s.buf ((y * 600 + x) / 2)).toNat / 16
      else (memRead s.buf ((y * 600 + x) / 2)).toNat % 16 := by
  rw [pixel, nibRead_toNat, pixelIndex_mod_two]
  rfl

/-- NibWrite at a pixel in range changes the byte's half of that pixel's column (R51, R53). -/
theorem memRead_nibWrite_pixel {m : Memory} (hm : memWf m = true) (x y : Nat) (c : Nibble) :
    (memRead (nibWrite m (pixelIndex x y) c) ((y * 600 + x) / 2)).toNat
      = if x % 2 = 0 then c.toNat * 16 + (memRead m ((y * 600 + x) / 2)).toNat % 16
        else (memRead m ((y * 600 + x) / 2)).toNat / 16 * 16 + c.toNat := by
  rw [← pixelIndex_mod_two x y]
  exact memRead_nibWrite_self hm (pixelIndex x y) c

/-- NibWrite at a pixel leaves every other pixel in range as it was (R65). -/
theorem nibRead_nibWrite_pixel_other {m : Memory} (hm : memWf m = true) {x y x' y' : Nat} (c : Nibble) (hx : x < 600)
    (hx' : x' < 600) (hne : x' ≠ x ∨ y' ≠ y) :
    nibRead (nibWrite m (pixelIndex x y) c) (pixelIndex x' y') = nibRead m (pixelIndex x' y') := by
  have hi : pixelIndex x' y' ≠ pixelIndex x y := by
    intro h
    obtain ⟨rfl, rfl⟩ := pixelIndex_inj hx hx' h
    exact hne.elim (absurd rfl) (absurd rfl)
  rw [nibRead_nibWrite hm, if_neg hi]

/-! ### What an operation on BUF leaves -/

/-- An operation that only writes BUF returns its result, with no event and every register as before (R111 to R113). -/
theorem complete_setBuf_frame (r : Result) (m : Memory) (s : State) :
    Returned s (complete r (setBuf m (beginOp s))) r ∧ (complete r (setBuf m (beginOp s))).trace = []
      ∧ SameRegisters s (complete r (setBuf m (beginOp s))) :=
  ⟨complete_returned r rfl le_rfl, rfl, rfl, rfl, rfl, rfl, rfl⟩

/-- An operation that writes nothing returns its result, with no event and every register and byte of BUF as before
(R112). -/
theorem complete_beginOp_frame (r : Result) (s : State) :
    Returned s (complete r (beginOp s)) r ∧ (complete r (beginOp s)).trace = []
      ∧ SameRegisters s (complete r (beginOp s)) ∧ SameBuffer s (complete r (beginOp s)) :=
  ⟨complete_returned r rfl le_rfl, rfl, ⟨rfl, rfl, rfl, rfl, rfl⟩, fun _ => rfl⟩

/-- An operation that stages a rectangle returns its result, with no event and every register and byte of BUF as before
(R114). -/
theorem complete_stageRegion_frame (r : Result) (x y w h : Coord) (s : State) :
    Returned s (complete r (stageRegion x y w h (beginOp s))) r
      ∧ (complete r (stageRegion x y w h (beginOp s))).trace = []
      ∧ SameRegisters s (complete r (stageRegion x y w h (beginOp s)))
      ∧ SameBuffer s (complete r (stageRegion x y w h (beginOp s))) :=
  ⟨complete_returned r (by simp) (by simp), by simp, by simp [SameRegisters], fun _ => by simp⟩

/-- After an operation that has returned and kept the registers the next one is admitted: the context is still there
(R224). -/
theorem ready_of_returned {s t : State} {r : Result} (hr : Ready s) (hret : Returned s t r)
    (hregs : SameRegisters s t) : Ready t := by
  obtain ⟨-, hseq, -⟩ := hret
  obtain ⟨-, -, -, hpstate, -⟩ := hregs
  exact ⟨hseq, by rw [hpstate]; exact hr.2⟩

/-! ### set_pixel, get_pixel, clear (R111 to R113, R117, R118) -/

/-- Settles O13: set_pixel in range is one NibWrite at the pixel's index. -/
theorem setPixelWritesOnePixel : Obligations.SetPixelWritesOnePixel := by
  unfold Obligations.SetPixelWritesOnePixel
  intro s x y color hr hm hx hy
  obtain ⟨hret, htrace, hregs⟩ :=
    complete_setBuf_frame okResult (nibWrite s.buf (pixelIndex x.toNat y.toNat) (lo4 color)) s
  refine ⟨_, exec_setPixel_in color hr hx hy, hret, htrace, hregs, ?_, ?_, ?_, ?_⟩
  · rw [← lo4_toNat]
    exact memRead_nibWrite_pixel hm x.toNat y.toNat (lo4 color)
  · rw [pixel, complete_buf, setBuf_buf, nibRead_nibWrite hm, if_pos rfl, lo4_toNat]
  · intro x' y' hx' _ hne
    exact nibRead_nibWrite_pixel_other hm _ hx hx' hne
  · intro a ha
    exact memRead_nibWrite_other hm _ a _ ha

/-- Settles O14: get_pixel is one NibRead in range, and the bounds error, which answers 0, out of range. -/
theorem getPixelReturnsPixel : Obligations.GetPixelReturnsPixel := by
  unfold Obligations.GetPixelReturnsPixel
  intro s x y hr
  obtain ⟨hret, hframe⟩ := complete_beginOp_frame _ s
  exact ⟨_, exec_getPixel x y hr, hret, fun _ _ => pixel_toNat s x.toNat y.toNat, hframe⟩

/-- Settles O15: clear fills BUF with the byte whose two halves are the colour. -/
theorem clearSetsEveryPixel : Obligations.ClearSetsEveryPixel := by
  unfold Obligations.ClearSetsEveryPixel
  intro s color hr
  obtain ⟨hret, htrace, hregs⟩ := complete_setBuf_frame okResult (memFill (byteOf (lo4 color) (lo4 color))) s
  refine ⟨_, exec_clear color hr, hret, htrace, hregs, ?_, ?_⟩
  · intro a ha
    rw [complete_buf, setBuf_buf, memRead_memFill _ ha, byteOf_toNat, lo4_toNat]
  · intro x y hx hy
    rw [pixel, complete_buf, setBuf_buf, nibRead_memFill _ (pixelIndex_lt hx hy), lo4_toNat]

/-- Settles O16: in range the NibRead follows a NibWrite at the same index; out of range both are the bounds error. -/
theorem setThenGetRoundTrip : Obligations.SetThenGetRoundTrip := by
  unfold Obligations.SetThenGetRoundTrip
  intro s x y color hr hm
  by_cases hin : x.toNat < 600 ∧ y.toNat < 448
  · obtain ⟨t, hexec, hret, -, hregs, -, hpixel, hother, -⟩ := setPixelWritesOnePixel s x y color hr hm hin.1 hin.2
    refine ⟨t, _, hexec, exec_getPixel x y (ready_of_returned hr hret hregs), ?_, fun hout => by omega⟩
    intro _
    rw [complete_result, if_pos hin, hpixel]
    exact ⟨rfl, hother⟩
  · have hout : 600 ≤ x.toNat ∨ 448 ≤ y.toNat := by omega
    obtain ⟨hret, htrace, hregs, hbuf⟩ := complete_beginOp_frame okResult s
    refine ⟨_, _, exec_setPixel_out color hr hout, exec_getPixel x y (ready_of_returned hr hret hregs),
      fun h => absurd h hin, ?_⟩
    intro _
    rw [complete_result, if_neg hin]
    exact ⟨hret, htrace, hregs, hbuf, rfl⟩

/-- Settles O17: the NibRead follows a fill of BUF; out of range it is the bounds error. -/
theorem clearThenGetRoundTrip : Obligations.ClearThenGetRoundTrip := by
  unfold Obligations.ClearThenGetRoundTrip
  intro s x y color hr
  obtain ⟨t, hexec, hret, -, hregs, -, hpixel⟩ := clearSetsEveryPixel s color hr
  refine ⟨t, _, hexec, exec_getPixel x y (ready_of_returned hr hret hregs), ?_⟩
  rw [complete_result]
  by_cases hin : x.toNat < 600 ∧ y.toNat < 448
  · rw [if_pos hin, if_pos hin, hpixel _ _ hin.1 hin.2]
  · rw [if_neg hin, if_neg hin]

/-! ### extract_region (R114, R119) -/

/-- A nibble of a packed list is bits [7:4] of its byte at an even index and bits [3:0] at an odd one (R55). -/
theorem nibbleAt_toNat (bs : List Byte) (k : Nat) :
    (nibbleAt bs k).toNat
      = if k % 2 = 0 then (bs.getD (k / 2) 0).toNat / 16 else (bs.getD (k / 2) 0).toNat % 16 := by
  unfold nibbleAt
  by_cases hk : k % 2 = 0
  · rw [if_neg (by omega), if_pos hk, highNibble_toNat]
  · rw [if_pos (by omega), if_neg hk, lowNibble_toNat]

/-- Settles O18: the bytes are the rectangle's pixels packed two to a byte, closed by the drawn nibble. -/
theorem extractRegionRepacksPixels : Obligations.ExtractRegionRepacksPixels := by
  unfold Obligations.ExtractRegionRepacksPixels
  intro s x y w h hr hw hh hx hy
  obtain ⟨hret, hframe⟩ := complete_stageRegion_frame _ x y w h s
  refine ⟨_, _, exec_extractRegion_in hr hw hh hx hy, hret, regionBytes_length .., ?_, nibbleAt_toNat _, ?_, hframe⟩
  · intro i j hi hj
    rw [nibbleAt_regionBytes _ _ _ _ _ _ hi hj, pixel]
  · exact nibbleAt_regionBytes_pad _ _ _ _ _ _

/-- A coordinate that stays inside the panel does not wrap (R114, R119). -/
theorem coord_add_toNat {x : Coord} {i n : Nat} (hi : i < n) (h : x.toNat + n ≤ 600) :
    (x + BitVec.ofNat 16 i).toNat = x.toNat + i := by
  rw [BitVec.toNat_add, BitVec.toNat_ofNat]
  omega

/-- Settles O19: both are the pixel at column `x + i`, row `y + j`. -/
theorem extractRegionAgreesWithGetPixel : Obligations.ExtractRegionAgreesWithGetPixel := by
  unfold Obligations.ExtractRegionAgreesWithGetPixel
  intro s x y w h hr hw hh hx hy
  obtain ⟨t, bs, hexec, hret, -, hnibble, -⟩ := extractRegionRepacksPixels s x y w h hr hw hh hx hy
  obtain ⟨hresult, -⟩ := hret
  refine ⟨t, _, bs, hexec, hresult, ?_⟩
  intro i j hi hj
  refine ⟨_, exec_getPixel _ _ hr, ?_⟩
  have hcol := coord_add_toNat hi hx
  have hrow := coord_add_toNat hj (hy.trans (by decide))
  rw [complete_result, hcol, hrow, if_pos (by omega), hnibble i j hi hj]

/-! ### The zero extent (R114, R169, R248) -/

/-- extract_region refuses a zero extent before it tests the bounds (R114, R248). -/
theorem exec_extractRegion_zeroExtent {s : State} (x y : Coord) {w h : Coord} (hr : Ready s)
    (hz : zeroExtent w h = true) : exec (.extractRegion x y w h) s = .refused .zeroExtent := by
  rw [exec, execExtractRegion, ifAdmitted_ready hr, if_pos hz]

/-- region_update refuses a zero extent before it tests the bounds (R169, R248). -/
theorem exec_regionUpdate_zeroExtent {s : State} (x y : Coord) {w h : Coord} (hr : Ready s)
    (hz : zeroExtent w h = true) : exec (.regionUpdate x y w h) s = .refused .zeroExtent := by
  rw [exec, execRegionUpdate, ifAdmitted_ready hr, if_pos hz]

/-- Settles O20: the extent is the first operand check of both operations. -/
theorem zeroExtentRefused : Obligations.ZeroExtentRefused := by
  unfold Obligations.ZeroExtentRefused
  intro s x y w h hr hz
  have hzero := (zeroExtent_iff w h).2 hz
  exact ⟨exec_extractRegion_zeroExtent x y hr hzero, exec_regionUpdate_zeroExtent x y hr hzero⟩

end Sys2Proof.Machine

namespace Sys2Proof.Machine

open Sys2Proof.Safety

/-! ### The two observers of the refresh policy (R143, R144) -/

/-- Settles O23: partial_count is an operation that writes nothing. -/
theorem partialCountReturnsCount : Obligations.PartialCountReturnsCount := by
  unfold Obligations.PartialCountReturnsCount
  intro s hr
  exact ⟨_, exec_partialCount hr, complete_beginOp_frame _ s⟩

/-- An operation that only reads the clock returns its result no earlier than that reading, with no event and every
register and byte of BUF as before (R143). -/
theorem complete_tick_beginOp_frame (r : Result) (s : State) :
    Returned s (complete r (tick (beginOp s))) r
      ∧ s.env.clk + s.env.advance ≤ (complete r (tick (beginOp s))).env.clk
      ∧ (complete r (tick (beginOp s))).trace = []
      ∧ SameRegisters s (complete r (tick (beginOp s))) ∧ SameBuffer s (complete r (tick (beginOp s))) :=
  ⟨complete_returned r rfl (tick_clk s), complete_clk r (tick (beginOp s)), rfl, ⟨rfl, rfl, rfl, rfl, rfl⟩, fun _ => rfl⟩

/-- Settles O24: should_full_refresh advances the clock for its one reading and returns. -/
theorem shouldFullRefreshAdvises : Obligations.ShouldFullRefreshAdvises := by
  unfold Obligations.ShouldFullRefreshAdvises
  intro s hr
  exact ⟨_, exec_shouldFullRefresh hr, complete_tick_beginOp_frame _ s⟩

/-! ### What a whole update leaves (R141, R142, R167, R169) -/

/-- An operation whose sequence has run to its end has returned OK, if up to the first step it left the host's later
operations and did not move the clock back (R170). -/
theorem runSteps_returned {s u : State} {a : Active} (hact : u.active = a) (hne : a ≠ .idle) (hhost : u.host = s.host)
    (hclk : s.env.clk ≤ u.env.clk) : Returned s (runSteps (sequenceOf a) u) okResult := by
  obtain ⟨hseq, hactive, hrbuf, hresult, -⟩ := runSteps_whole hact hne
  exact ⟨hresult, hseq, hactive, hrbuf, (runSteps_host _ u).trans hhost, hclk.trans (runSteps_clk _ u)⟩

/-- full_update ends with the panel powered off, whatever PSTATE was (R163, R167). -/
theorem runSteps_fullUpdate_pstate (s : State) : (runSteps (sequenceOf .fullUpdate) s).pstate = .poweredOff := by
  rw [runSteps_pstate]; rfl

/-- region_update ends with the panel powered off, whatever PSTATE was (R163, R169). -/
theorem runSteps_regionUpdate_pstate (x y w h : Coord) (s : State) :
    (runSteps (sequenceOf (.regionUpdate x y w h)) s).pstate = .poweredOff := by
  rw [runSteps_pstate]; rfl

/-- After an operation that left the panel powered off the next one is admitted (R163, R224). -/
theorem ready_of_poweredOff {s t : State} {r : Result} (hret : Returned s t r) (hp : t.pstate = .poweredOff) :
    Ready t := by
  obtain ⟨-, hseq, -⟩ := hret
  exact ⟨hseq, by simp [hp]⟩

/-- Settles O28: RecordFull writes PCOUNT and LFRT before the first step, and no step of the sequence writes them again. -/
theorem fullUpdateEffect : Obligations.FullUpdateEffect := by
  unfold Obligations.FullUpdateEffect
  intro s hr
  refine ⟨_, exec_fullUpdate hr, runSteps_returned rfl (by decide) rfl (startFullUpdate_clk s), ?_, ?_, ?_,
    runSteps_fullUpdate_pstate _, ?_, ?_, ?_⟩
  · rw [runSteps_pcount, startFullUpdate_pcount]
  · rw [runSteps_lfrt, startFullUpdate_lfrt]
    exact Nat.le_add_right _ _
  · rw [runSteps_lfrt]
    exact runSteps_clk _ (startFullUpdate s)
  · rw [runSteps_border, startFullUpdate_border]
  · rw [runSteps_emu, startFullUpdate_emu]
  · intro a
    rw [runSteps_buf, startFullUpdate_buf]

/-- An increment below the maximum does not wrap (R142). -/
theorem count_succ_toNat {p : BitVec 32} (h : p.toNat < 2 ^ 32 - 1) : (p + 1).toNat = p.toNat + 1 := by
  bv_omega

/-- RecordPartial counts one before the first step, and no step of the sequence writes PCOUNT (R142, R169). -/
theorem runSteps_regionUpdate_pcount {s : State} (x y w h : Coord) (hc : s.pcount.toNat < 2 ^ 32 - 1) :
    (runSteps (sequenceOf (.regionUpdate x y w h)) (startRegionUpdate x y w h s)).pcount.toNat = s.pcount.toNat + 1 := by
  rw [runSteps_pcount, startRegionUpdate_pcount, count_succ_toNat hc]

/-- At its maximum the count stops a region_update that has passed its other checks (R142, R148, R248). -/
theorem exec_regionUpdate_countAtMax {s : State} {x y w h : Coord} (hr : Ready s) (hw : 1 ≤ w.toNat) (hh : 1 ≤ h.toNat)
    (hx : x.toNat + w.toNat ≤ 600) (hy : y.toNat + h.toNat ≤ 448) (hc : countAtMax s = true) :
    exec (.regionUpdate x y w h) s = .refused .countOverflow := by
  rw [exec, execRegionUpdate, ifAdmitted_ready hr, zeroExtent_false hw hh, exceedsBounds_false hx hy, hc,
    if_neg (by decide), if_neg (by decide), if_pos rfl]

/-- Settles O33: the count is the last check of region_update. -/
theorem countOverflowRefused : Obligations.CountOverflowRefused := by
  unfold Obligations.CountOverflowRefused
  intro s x y w h hr hw hh hx hy hc
  exact exec_regionUpdate_countAtMax hr hw hh hx hy (by rw [countAtMax, hc]; rfl)

/-! ### Who writes PCOUNT (R23, R147) -/

/-- No sequencer step counts (R147). -/
theorem microStep_pcount (s : State) : (microStep s).pcount = s.pcount := by
  simp [microStep_eq]

/-- The operations that neither update the panel nor make or end a context, and all panel commands, leave PCOUNT
(R147). -/
theorem exec_pcount {i : Instr} {s t : State} (h : exec i s = .next t) (hini : ∀ e, i ≠ .initialise e)
    (hdes : i ≠ .destroy) (hful : i ≠ .fullUpdate) (hreg : ∀ x y w h, i ≠ .regionUpdate x y w h) :
    t.pcount = s.pcount := by
  cases i
  case initialise e => exact absurd rfl (hini e)
  case destroy => exact absurd rfl hdes
  case fullUpdate => exact absurd rfl hful
  case regionUpdate x y w h' => exact absurd rfl (hreg x y w h')
  case clear c =>
    obtain ⟨-, rfl⟩ := execClear_inv h
    rfl
  case setPixel x y c =>
    obtain ⟨-, ⟨-, -, rfl⟩ | rfl⟩ := execSetPixel_inv h <;> rfl
  case getPixel x y =>
    obtain ⟨-, r, rfl⟩ := execGetPixel_inv h
    rfl
  case setBorder c =>
    obtain ⟨-, rfl⟩ := execSetBorder_inv h
    rfl
  case shouldFullRefresh =>
    obtain ⟨-, r, rfl⟩ := execShouldFullRefresh_inv h
    rfl
  case partialCount =>
    obtain ⟨-, rfl⟩ := execPartialCount_inv h
    rfl
  case extractRegion x y w h' =>
    obtain ⟨-, r, rfl | rfl⟩ := execExtractRegion_inv h
    · rfl
    · exact stageRegion_pcount x y w h' (beginOp s)
  case exportImage rest => cases h
  all_goals
    obtain ⟨-, -, rfl⟩ := execPanel_inv rfl h
    exact microStep_pcount s

/-- A region_update that answers has either returned OK and counted one, or reported the bounds error and counted none
(R142, R168, R169). -/
theorem execRegionUpdate_pcount {s t : State} {x y w h : Coord} (he : exec (.regionUpdate x y w h) s = .next t) :
    (t.result = some ⟨.ok, 0, []⟩ ∧ t.pcount.toNat = s.pcount.toNat + 1)
      ∨ (t.result = some ⟨.errBounds, 0, []⟩ ∧ t.pcount = s.pcount) := by
  obtain ⟨-, -, rfl | ⟨-, hc, rfl⟩⟩ := execRegionUpdate_inv he
  · exact .inr ⟨rfl, rfl⟩
  · obtain ⟨-, -, -, hresult, -⟩ := runSteps_whole (s := startRegionUpdate x y w h s) rfl nofun
    exact .inl ⟨hresult, runSteps_regionUpdate_pcount x y w h hc⟩

/-- Settles O27: RecordFull clears the count, RecordPartial adds one, and nothing else writes it. -/
theorem countChangesOnlyByUpdates : Obligations.CountChangesOnlyByUpdates := by
  unfold Obligations.CountChangesOnlyByUpdates
  intro i s t hini hdes h
  refine ⟨?_, ?_, exec_pcount h hini hdes⟩
  · rintro rfl
    obtain ⟨-, rfl⟩ := execFullUpdate_inv h
    rw [runSteps_pcount, startFullUpdate_pcount]
  · rintro x y w h' rfl
    exact execRegionUpdate_pcount h

/-! ### The advice after updates (R145, R146) -/

/-- Whatever the environment did meanwhile, the advice is decided by the state's PCOUNT and LFRT and by one reading of the
environment's clock (R143). -/
theorem exec_shouldFullRefresh_meanwhile {t : State} (hr : Ready t) (env : Env) :
    ∃ v, exec .shouldFullRefresh { t with env := env } = .next v
      ∧ v.result = some ⟨.ok, if 5 ≤ t.pcount.toNat ∨ 180 * Config.tickHz ≤ env.clk + env.advance - t.lfrt
          then 1 else 0, []⟩ :=
  ⟨_, exec_shouldFullRefresh (s := { t with env := env }) hr, rfl⟩

/-- Settles O26: RecordFull has cleared PCOUNT, so the clock alone decides. -/
theorem fullUpdateClearsAdvice : Obligations.FullUpdateClearsAdvice := by
  unfold Obligations.FullUpdateClearsAdvice
  intro s hr
  obtain ⟨t, hexec, hret, hcount, -, -, hpstate, -⟩ := fullUpdateEffect s hr
  have hready := ready_of_poweredOff hret hpstate
  refine ⟨t, _, hexec, exec_partialCount hready, by rw [complete_result, hcount], ?_⟩
  intro env htime
  obtain ⟨v, hadvice, hresult⟩ := exec_shouldFullRefresh_meanwhile hready env
  have hzero : t.pcount.toNat = 0 := by rw [hcount]; rfl
  exact ⟨v, hadvice, by rw [hresult, if_neg (by omega)]⟩

/-- An accepted region update has an extent and lies inside the panel (R168, R169). -/
theorem acceptedRegion_inv {i : Instr} (h : acceptedRegion i = true) :
    ∃ x y w h, i = .regionUpdate x y w h ∧ 1 ≤ w.toNat ∧ 1 ≤ h.toNat ∧ x.toNat + w.toNat ≤ 600
      ∧ y.toNat + h.toNat ≤ 448 := by
  cases i
  case regionUpdate x y w h' =>
    simp only [acceptedRegion, Bool.and_eq_true, Bool.not_eq_true', ← Bool.not_eq_true, zeroExtent_iff,
      exceedsBounds_iff] at h
    exact ⟨x, y, w, h', rfl, by omega, by omega, by omega, by omega⟩
  all_goals cases h

/-- An accepted region update, the count below its maximum, counts one, leaves LFRT and lets the next operation be
admitted (R142, R169). -/
theorem exec_acceptedRegion {i : Instr} {s : State} (hr : Ready s) (hi : acceptedRegion i = true)
    (hc : s.pcount.toNat < 2 ^ 32 - 1) :
    ∃ t, exec i s = .next t ∧ Ready t ∧ t.pcount.toNat = s.pcount.toNat + 1 ∧ t.lfrt = s.lfrt := by
  obtain ⟨x, y, w, h, rfl, hw, hh, hx, hy⟩ := acceptedRegion_inv hi
  have hret : Returned s (runSteps (sequenceOf (.regionUpdate x y w h)) (startRegionUpdate x y w h s)) okResult :=
    runSteps_returned rfl nofun rfl le_rfl
  refine ⟨_, exec_regionUpdate_in hr hw hh hx hy hc,
    ready_of_poweredOff hret (runSteps_regionUpdate_pstate x y w h _), runSteps_regionUpdate_pcount x y w h hc, ?_⟩
  rw [runSteps_lfrt, startRegionUpdate_lfrt]

/-- Accepted region updates one after another are all counted, as long as the count has room for them (R145). -/
theorem runAll_acceptedRegions {updates : List Instr} {s : State} (hr : Ready s)
    (hacc : ∀ i ∈ updates, acceptedRegion i = true) (hroom : s.pcount.toNat + updates.length < 2 ^ 32) :
    ∃ t, runAll updates s = .next t ∧ Ready t ∧ t.pcount.toNat = s.pcount.toNat + updates.length ∧ t.lfrt = s.lfrt := by
  induction updates generalizing s with
  | nil => exact ⟨s, rfl, hr, rfl, rfl⟩
  | cons i rest ih =>
    rw [List.length_cons] at hroom ⊢
    obtain ⟨hi, hrest⟩ := List.forall_mem_cons.1 hacc
    obtain ⟨u, hexec, hru, hcount, hlfrt⟩ := exec_acceptedRegion hr hi (by omega)
    obtain ⟨t, hrun, hrt, hcount', hlfrt'⟩ := ih hru hrest (by omega)
    exact ⟨t, by rw [runAll, hexec]; exact hrun, hrt, by omega, hlfrt'.trans hlfrt⟩

/-- Settles O25: the count of the run decides the advice from the fifth update on, the clock before. -/
theorem partialUpdatesAreCounted : Obligations.PartialUpdatesAreCounted := by
  unfold Obligations.PartialUpdatesAreCounted
  intro s updates hr hzero hlen hacc
  have hstart : s.pcount.toNat = 0 := by rw [hzero]; rfl
  obtain ⟨t, hrun, hrt, hcount, hlfrt⟩ := runAll_acceptedRegions hr hacc (by omega)
  rw [hstart, Nat.zero_add] at hcount
  refine ⟨t, _, hrun, hcount, hlfrt, exec_partialCount hrt, ?_, ?_⟩
  · rw [complete_result, ← hcount, BitVec.ofNat_toNat, BitVec.setWidth_eq]
  · intro env
    obtain ⟨v, hadvice, hresult⟩ := exec_shouldFullRefresh_meanwhile hrt env
    refine ⟨v, hadvice, ?_, ?_⟩
    · intro hfive
      rw [hresult, if_pos (.inl (by omega))]
    · intro hfew htime
      rw [hresult, if_neg (by omega)]

end Sys2Proof.Machine

namespace Sys2Proof.Machine

open Sys2Proof.Safety

/-! ### A single step of a sequence: SEQ goes on, or the operation returns -/

/-- The command event, and the data event unless there is no data (R161). -/
theorem stepEvents_eq_protocolStep (b : Byte) (bs : List Byte) : stepEvents b bs = protocolStep b bs := by
  cases bs <;> rfl

/-- A sequencer step that is not the last of its table, and stages no bytes: its events, its PSTATE, and SEQ at the next
step of the table (R27). -/
theorem microStep_goesOn {s : State} {q q' : SeqStep} (hq : s.seq = q) (hp3 : q ≠ .p3Data)
    (hnext : following q (sequenceOf s.active) = q') (hgo : q' ≠ .none) :
    Appended s (microStep s) (actionEvents q s) ∧ (microStep s).seq = q' ∧ (microStep s).active = s.active
      ∧ (microStep s).pstate = actionPhase q s.pstate ∧ (microStep s).rbuf = s.rbuf ∧ StepKeeps s (microStep s) := by
  subst hq hnext
  exact ⟨microStep_appended s, microStep_seq s, microStep_active hgo, microStep_pstate s,
    (microStep_rbuf hgo).trans (seqAction_rbuf hp3 s), microStep_stepKeeps s⟩

/-- The last step of a table: its events, its PSTATE, and the operation returns OK (R27). -/
theorem microStep_returns {s : State} {q : SeqStep} (hq : s.seq = q)
    (hlast : following q (sequenceOf s.active) = .none) :
    Appended s (microStep s) (actionEvents q s) ∧ Returned s (microStep s) okResult
      ∧ (microStep s).pstate = actionPhase q s.pstate ∧ StepKeeps s (microStep s) := by
  subst hq
  have hret : microStep s = complete okResult (seqAction s.seq s) :=
    advanceSeq_last (by rw [seqAction_seq, seqAction_active, hlast])
  refine ⟨microStep_appended s, ?_, microStep_pstate s, microStep_stepKeeps s⟩
  rw [hret]
  exact complete_returned okResult (seqAction_host s.seq s) (seqAction_clk s.seq s).ge

/-- The panel command of a step that stages no bytes is that sequencer step (R170). -/
theorem exec_commandAt_step {s : State} {i : Instr} {q : SeqStep} (hq : s.seq = q) (hc : commandAt q = some i)
    (hp3 : q ≠ .p3Data) : exec i s = .next (microStep s) :=
  exec_commandAt (by rw [hq]; exact hc) (fun h => absurd (hq.symm.trans h) hp3)

/-- A sequencer step that stages no bytes is what the machine does next (R170). -/
theorem step_sequence_step {s : State} {q : SeqStep} (hq : s.seq = q) (hne : q ≠ .none) (hp3 : q ≠ .p3Data) :
    step s = .next (microStep s) :=
  step_sequence (by rw [hq]; exact hne) (fun h => absurd (hq.symm.trans h) hp3)

/-! ### Where the tables share their steps (R164, R165, R169) -/

/-- initialize and region_update begin with InitSeq (R164, R169, R220). -/
theorem sequenceOf_eq_initSteps_append {a : Active} (hidle : a ≠ .idle) (hfull : a ≠ .fullUpdate) :
    ∃ rest, sequenceOf a = initSteps ++ rest := by
  cases a with
  | idle => exact absurd rfl hidle
  | initialise => exact ⟨[], rfl⟩
  | fullUpdate => exact absurd rfl hfull
  | regionUpdate x y w h => exact ⟨[.p1Window, .p2PartIn, .p3Data] ++ tailSteps ++ [.p4PartOut], rfl⟩

/-- A step of InitSeq before its last has one successor in every table that begins with InitSeq (R164). -/
theorem following_initSeq {a : Active} {q q' : SeqStep} (hidle : a ≠ .idle) (hfull : a ≠ .fullUpdate)
    (h : ∀ rest, following q (initSteps ++ rest) = q') : following q (sequenceOf a) = q' := by
  obtain ⟨rest, ha⟩ := sequenceOf_eq_initSteps_append hidle hfull
  rw [ha]
  exact h rest

/-- The steps of the refresh tail follow each other in both updates (R165, R167, R169). -/
theorem following_refreshTail {a : Active} (hidle : a ≠ .idle) (hini : a ≠ .initialise) :
    following .t1PowerOn (sequenceOf a) = .t2Settle ∧ following .t2Settle (sequenceOf a) = .t3Refresh
      ∧ following .t3Refresh (sequenceOf a) = .t4Wait ∧ following .t4Wait (sequenceOf a) = .t5PowerOff
      ∧ following .t5PowerOff (sequenceOf a) = .t6Settle := by
  cases a with
  | idle => exact absurd rfl hidle
  | initialise => exact absurd rfl hini
  | fullUpdate => decide
  | regionUpdate x y w h => exact ⟨rfl, rfl, rfl, rfl, rfl⟩

/-! ### The steps that send no command (R164 to R166) -/

/-- Settles O10: each of the four is the sequencer step SEQ names; T6 is the last step of full_update alone. -/
theorem internalSequencerSteps : Obligations.InternalSequencerSteps := by
  unfold Obligations.InternalSequencerSteps
  intro s
  refine ⟨?_, ?_, ?_, ?_, ?_⟩
  · intro hq hidle hfull
    have hnext := following_initSeq (q := .i0Reset) hidle hfull (fun _ => rfl)
    obtain ⟨hevents, hseq, hact, hphase, -, hkeeps⟩ := microStep_goesOn hq (by decide) hnext (by decide)
    exact ⟨_, step_sequence_step hq (by decide) (by decide), hevents, hseq, hact, hphase, hkeeps⟩
  · intro hq hidle hini
    obtain ⟨-, hnext, -⟩ := following_refreshTail hidle hini
    obtain ⟨hevents, hseq, hact, hphase, -, hkeeps⟩ := microStep_goesOn hq (by decide) hnext (by decide)
    exact ⟨_, step_sequence_step hq (by decide) (by decide), hevents, hseq, hact, hphase, hkeeps⟩
  · intro hq hidle hini
    obtain ⟨-, -, -, hnext, -⟩ := following_refreshTail hidle hini
    obtain ⟨hevents, hseq, hact, hphase, -, hkeeps⟩ := microStep_goesOn hq (by decide) hnext (by decide)
    exact ⟨_, step_sequence_step hq (by decide) (by decide), hevents, hseq, hact, hphase, hkeeps⟩
  · intro hq ha
    obtain ⟨hevents, hret, hphase, hkeeps⟩ := microStep_returns hq (by rw [ha]; rfl)
    exact ⟨_, step_sequence_step hq (by decide) (by decide), hevents, hphase, hkeeps, hret⟩
  · intro x y w h hq ha
    have hnext : following .t6Settle (sequenceOf s.active) = .p4PartOut := by rw [ha]; rfl
    obtain ⟨hevents, hseq, hact, hphase, -, hkeeps⟩ := microStep_goesOn hq (by decide) hnext (by decide)
    exact ⟨_, step_sequence_step hq (by decide) (by decide), hevents, hphase, hkeeps, hseq, hact⟩

/-! ### The init commands (R88, R164) -/

/-- A row of the table of init commands: the step sends that command with those events, leaves PSTATE and goes on to the
next step of InitSeq. -/
theorem initCommandTable_row {s : State} {i : Instr} {q next : SeqStep} {b : Byte} {bs : List Byte}
    (h : (i, q, b, bs, next) ∈ initCommandTable s.border) :
    commandAt q = some i ∧ q ≠ .p3Data ∧ next ≠ .none ∧ actionEvents q s = stepEvents b bs
      ∧ actionPhase q s.pstate = s.pstate ∧ ∀ rest, following q (initSteps ++ rest) = next := by
  simp only [initCommandTable, List.mem_cons, List.not_mem_nil, or_false, Prod.mk.injEq] at h
  rcases h with ⟨rfl, rfl, rfl, rfl, rfl⟩ | ⟨rfl, rfl, rfl, rfl, rfl⟩ | ⟨rfl, rfl, rfl, rfl, rfl⟩
    | ⟨rfl, rfl, rfl, rfl, rfl⟩ | ⟨rfl, rfl, rfl, rfl, rfl⟩ | ⟨rfl, rfl, rfl, rfl, rfl⟩
    | ⟨rfl, rfl, rfl, rfl, rfl⟩ | ⟨rfl, rfl, rfl, rfl, rfl⟩ | ⟨rfl, rfl, rfl, rfl, rfl⟩
  all_goals exact ⟨rfl, by decide, by decide, rfl, rfl, fun _ => rfl⟩

/-- Settles O41: the row of the table says what the sequencer step does. -/
theorem initCommandsSend : Obligations.InitCommandsSend := by
  unfold Obligations.InitCommandsSend
  intro s i q b bs next hrow hq hidle hfull
  obtain ⟨hc, hp3, hgo, hsends, hleaves, hfollow⟩ := initCommandTable_row hrow
  obtain ⟨hevents, hseq, hact, hphase, hrest⟩ :=
    microStep_goesOn hq hp3 (following_initSeq hidle hfull hfollow) hgo
  rw [hsends, stepEvents_eq_protocolStep] at hevents
  exact ⟨_, exec_commandAt_step hq hc hp3, hevents, hseq, hact, hphase.trans hleaves, hrest⟩

/-- After InitSeq region_update goes on to its window (R169). -/
theorem following_poffSeq {a : Active} (hidle : a ≠ .idle) (hfull : a ≠ .fullUpdate) (hini : a ≠ .initialise) :
    following .i10PoffSeq (sequenceOf a) = .p1Window := by
  cases a with
  | idle => exact absurd rfl hidle
  | initialise => exact absurd rfl hini
  | fullUpdate => exact absurd rfl hfull
  | regionUpdate x y w h => rfl

/-- Settles O42: POFF_SEQ is the last step of initialize, and not of region_update. -/
theorem poffSeqConfigures : Obligations.PoffSeqConfigures := by
  unfold Obligations.PoffSeqConfigures
  intro s hq hidle hfull
  have hevents : Appended s (microStep s) (protocolStep Config.cmdPoffSeq Config.payPoffSeq) := by
    rw [← stepEvents_eq_protocolStep]
    simpa only [hq, actionEvents] using microStep_appended s
  have hphase : (microStep s).pstate = .configured := by rw [microStep_pstate, hq]; rfl
  refine ⟨_, exec_commandAt_step hq rfl (by decide), hevents, hphase, microStep_stepKeeps s, ?_, ?_⟩
  · intro ha
    exact (microStep_returns hq (by rw [ha]; rfl)).2.1
  · intro hini
    obtain ⟨-, hseq, hact, -⟩ :=
      microStep_goesOn hq (by decide) (following_poffSeq hidle hfull hini) (by decide)
    exact ⟨hseq, hact⟩

/-! ### The commands of the refresh tail and of partial mode (R165, R169) -/

/-- Settles O43: each of the three sends its command alone and is followed in the tail. -/
theorem tailCommandsSend : Obligations.TailCommandsSend := by
  unfold Obligations.TailCommandsSend
  intro s hidle hini
  obtain ⟨hpowerOn, -, hrefresh, -, hpowerOff⟩ := following_refreshTail hidle hini
  refine ⟨fun hq => ⟨_, exec_commandAt_step hq rfl (by decide), ?_⟩,
    fun hq => ⟨_, exec_commandAt_step hq rfl (by decide), ?_⟩,
    fun hq => ⟨_, exec_commandAt_step hq rfl (by decide), ?_⟩⟩
  · exact microStep_goesOn hq (by decide) hpowerOn (by decide)
  · exact microStep_goesOn hq (by decide) hrefresh (by decide)
  · exact microStep_goesOn hq (by decide) hpowerOff (by decide)

/-- The less significant byte of a value needs no reduction (R89). -/
theorem ofNat_eight_mod (n : Nat) : BitVec.ofNat 8 (n % 256) = BitVec.ofNat 8 n :=
  BitVec.eq_of_toNat_eq (by simp)

/-- The window's four values, each with its more significant byte first (R89). -/
theorem windowBytes_bigEndian (x y w h : Coord) :
    windowBytes x y w h =
      [BitVec.ofNat 8 (x.toNat / 256), BitVec.ofNat 8 (x.toNat % 256),
       BitVec.ofNat 8 (y.toNat / 256), BitVec.ofNat 8 (y.toNat % 256),
       BitVec.ofNat 8 ((x.toNat + w.toNat - 1) / 256), BitVec.ofNat 8 ((x.toNat + w.toNat - 1) % 256),
       BitVec.ofNat 8 ((y.toNat + h.toNat - 1) / 256), BitVec.ofNat 8 ((y.toNat + h.toNat - 1) % 256)] := by
  simp only [windowBytes_eq, ofNat_eight_mod]

/-- Settles O45: P1 and P2 go on in region_update's table, P4 is its last step. -/
theorem partialModeCommandsSend : Obligations.PartialModeCommandsSend := by
  unfold Obligations.PartialModeCommandsSend
  intro s x y w h ha
  have hwindow : following .p1Window (sequenceOf s.active) = .p2PartIn := by rw [ha]; rfl
  have hpartIn : following .p2PartIn (sequenceOf s.active) = .p3Data := by rw [ha]; rfl
  have hpartOut : following .p4PartOut (sequenceOf s.active) = .none := by rw [ha]; rfl
  refine ⟨fun hq => ⟨_, exec_commandAt_step hq rfl (by decide), ?_⟩,
    fun hq => ⟨_, exec_commandAt_step hq rfl (by decide), ?_⟩,
    fun hq => ⟨_, exec_commandAt_step hq rfl (by decide), ?_⟩⟩
  · have hsent := microStep_goesOn hq (by decide) hwindow (by decide)
    rw [actionEvents, ha, windowOf, windowBytes_bigEndian] at hsent
    rw [ha]
    exact hsent
  · exact microStep_goesOn hq (by decide) hpartIn (by decide)
  · exact microStep_returns hq hpartOut

end Sys2Proof.Machine

namespace Sys2Proof.Machine

open Sys2Proof.Safety

/-! ### The events of the tables (R164, R165) -/

theorem eventsOf_append (ps qs : List SeqStep) (s : State) :
    eventsOf (ps ++ qs) s = eventsOf ps s ++ eventsOf qs s :=
  List.flatMap_append

/-- InitSeq sends the reset pulse and the ten commands, with the current border colour (R164). -/
theorem eventsOf_initSteps (s : State) : eventsOf initSteps s = initTrace s.border := by
  simp [eventsOf, initSteps, actionEvents, stepEvents_eq_protocolStep, initTrace]

/-- The busy-wait with the source's timeout and interval (R7, R166). -/
theorem waitEvents_eq (r : ReadyAnswer) :
    waitEvents r = [.wait 40000 10 r] ++ if r = .timedOut then [.warn .busyTimeout] else [] := rfl

/-- The source's settle delay (R7). -/
theorem settleMs_eq : Config.settleMs = 200 := rfl

/-- RefreshTail sends its three commands between the settle delays and the busy-wait (R165, R166). -/
theorem eventsOf_tailSteps (s : State) : eventsOf tailSteps s = tailTrace s.env.ready := by
  simp [eventsOf, tailSteps, actionEvents, stepEvents, waitEvents_eq, settleMs_eq, tailTrace]

/-- full_update sends BUF, then the refresh tail (R167). -/
theorem eventsOf_fullUpdate (s : State) :
    eventsOf (sequenceOf .fullUpdate) s = [.cmd Config.cmdDataStart, .dat (memDump s.buf)] ++ tailTrace s.env.ready := by
  have hdata : eventsOf [.f0Data] s = [.cmd Config.cmdDataStart, .dat (memDump s.buf)] := by
    simp only [eventsOf, List.flatMap_singleton, actionEvents]
    exact stepEvents_data _ (by simp [memDump])
  rw [← hdata, ← eventsOf_tailSteps, ← eventsOf_append]
  rfl

/-- region_update's steps between InitSeq and the refresh tail: the window, partial mode, the rectangle (R169). -/
theorem eventsOf_partialSteps {s : State} {x y w h : Coord} (ha : s.active = .regionUpdate x y w h) (hw : 1 ≤ w.toNat)
    (hh : 1 ≤ h.toNat) :
    eventsOf [.p1Window, .p2PartIn, .p3Data] s
      = [.cmd Config.cmdPartWindow, .dat (windowBytes x y w h), .cmd Config.cmdPartIn, .cmd Config.cmdDataStart,
          .dat (regionBytes s.buf x.toNat y.toNat w.toNat h.toNat s.env.pad)] := by
  have hwindow : actionEvents .p1Window s = [.cmd Config.cmdPartWindow, .dat (windowBytes x y w h)] := by
    rw [actionEvents, ha]; rfl
  have hlen : 0 < (regionBytes s.buf x.toNat y.toNat w.toNat h.toNat s.env.pad).length := by
    have harea : 0 < w.toNat * h.toNat := Nat.mul_pos hw hh
    rw [regionBytes_length]
    omega
  have hdata : actionEvents .p3Data s = [.cmd Config.cmdDataStart,
      .dat (regionBytes s.buf x.toNat y.toNat w.toNat h.toNat s.env.pad)] := by
    rw [actionEvents, stagedBytes, ha]
    exact stepEvents_data _ hlen
  simp only [eventsOf, List.flatMap_cons, List.flatMap_nil, hwindow, hdata]
  rfl

/-- region_update sends InitSeq, the window and the rectangle, the refresh tail, and leaves partial mode (R169). -/
theorem eventsOf_regionUpdate {s : State} {x y w h : Coord} (ha : s.active = .regionUpdate x y w h)
    (hw : 1 ≤ w.toNat) (hh : 1 ≤ h.toNat) :
    eventsOf (sequenceOf (.regionUpdate x y w h)) s
      = initTrace s.border
        ++ [.cmd Config.cmdPartWindow, .dat (windowBytes x y w h), .cmd Config.cmdPartIn, .cmd Config.cmdDataStart,
            .dat (regionBytes s.buf x.toNat y.toNat w.toNat h.toNat s.env.pad)]
        ++ tailTrace s.env.ready ++ [.cmd Config.cmdPartOut] := by
  have hout : eventsOf [.p4PartOut] s = [.cmd Config.cmdPartOut] := rfl
  rw [sequenceOf, eventsOf_append, eventsOf_append, eventsOf_append, eventsOf_initSteps,
    eventsOf_partialSteps ha hw hh, eventsOf_tailSteps, hout]

/-! ### The trace of a whole update (R162, R167, R169) -/

/-- A sequence run from an empty trace leaves the events of its table, and none on the emulated backend (R162, R171). -/
theorem runSteps_trace {s : State} {a : Active} (ha : s.active = a) (hne : a ≠ .idle) (hstart : s.trace = []) :
    (runSteps (sequenceOf a) s).trace = if s.emu then [] else eventsOf (sequenceOf a) s := by
  obtain ⟨-, -, -, -, htrace⟩ := runSteps_whole ha hne
  rw [htrace, hstart, List.nil_append]

/-- Settles O29: the trace is that of full_update's table, with BUF and the Transport's answer as before the operation. -/
theorem fullUpdateTrace : Obligations.FullUpdateTrace := by
  unfold Obligations.FullUpdateTrace
  intro s hr
  refine ⟨_, exec_fullUpdate hr, ?_⟩
  rw [runSteps_trace (startFullUpdate_active s) (by decide) rfl, eventsOf_fullUpdate]
  rfl

/-- Settles O31: the trace is that of region_update's table, whose payload is the rectangle as extract_region packs it. -/
theorem regionUpdateTrace : Obligations.RegionUpdateTrace := by
  unfold Obligations.RegionUpdateTrace
  intro s x y w h hr hw hh hx hy hc
  refine ⟨_, regionBytes s.buf x.toNat y.toNat w.toNat h.toNat s.env.pad,
    exec_regionUpdate_in hr hw hh hx hy hc, regionBytes_length .., ?_, nibbleAt_regionBytes_pad _ _ _ _ _ _, ?_⟩
  · intro i j hi hj
    exact nibbleAt_regionBytes _ _ _ _ _ _ hi hj
  · have hact := startRegionUpdate_active x y w h s
    rw [runSteps_trace hact (by simp) rfl, eventsOf_regionUpdate hact hw hh, windowBytes_bigEndian]
    rfl

/-! ### What region_update leaves (R168, R169) -/

/-- Settles O30: RecordPartial counts before the first step, and no step of the sequence writes PCOUNT, LFRT, BORDER, EMU or
BUF. -/
theorem regionUpdateEffect : Obligations.RegionUpdateEffect := by
  unfold Obligations.RegionUpdateEffect
  intro s x y w h hr hw hh hx hy hc
  refine ⟨_, exec_regionUpdate_in hr hw hh hx hy hc, runSteps_returned rfl (by simp) rfl le_rfl,
    runSteps_regionUpdate_pcount x y w h hc, runSteps_regionUpdate_pstate x y w h _, ?_, ?_, ?_, ?_⟩
  · rw [runSteps_lfrt, startRegionUpdate_lfrt]
  · rw [runSteps_border, startRegionUpdate_border]
  · rw [runSteps_emu, startRegionUpdate_emu]
  · intro a
    rw [runSteps_buf, startRegionUpdate_buf]

/-- Settles O32: both operations return the bounds error and write nothing. -/
theorem rectangleOutsideReported : Obligations.RectangleOutsideReported := by
  unfold Obligations.RectangleOutsideReported
  intro s x y w h hr hw hh ho
  exact ⟨⟨_, exec_regionUpdate_out hr hw hh ho, complete_beginOp_frame _ s⟩,
    ⟨_, exec_extractRegion_out hr hw hh ho, complete_beginOp_frame _ s⟩⟩

/-! ### A sequence as the machine's single steps (R170, D9) -/

/-- A run of the machine goes on from the state its first step gives. -/
theorem run_core_succ {s t : State} (h : step s = .next t) (k : Nat) :
    Host.Core.run core (k + 1) s = Host.Core.run core k t := by
  have hstep : core.step s = .next t := h
  simp only [Host.Core.run, hstep]

/-- The rest of a table, from where SEQ stands, is as many steps of the machine as it has sequencer steps. -/
theorem run_core_suffix {s : State} {pre qs : List SeqStep} (h : sequenceOf s.active = pre ++ qs)
    (hq : s.seq = qs.headD .none) (hin : stagedOutside s.active = false) :
    Host.Core.run core qs.length s = .next (runSteps qs s) := by
  induction qs generalizing s pre with
  | nil => rfl
  | cons q rest ih =>
    have hq : s.seq = q := hq
    have hne : s.seq ≠ .none := by
      intro hn
      exact none_notMem_sequenceOf s.active (by rw [h, ← hn, hq]; simp)
    have hnext : following s.seq (sequenceOf s.active) = rest.headD .none := by
      have hnodup := sequenceOf_nodup s.active
      rw [h] at hnodup
      rw [hq, h, following_append hnodup]
    rw [List.length_cons, run_core_succ (step_sequence hne (fun _ => hin)), runSteps_cons hq]
    cases rest with
    | nil => rfl
    | cons q' rest =>
      have hgo : following s.seq (sequenceOf s.active) ≠ .none := by
        intro hn
        exact none_notMem_sequenceOf s.active (by rw [h, ← hn, hnext]; simp)
      have hact := microStep_active hgo
      exact ih (pre := pre ++ [q]) (by rw [hact, h]; simp) ((microStep_seq s).trans hnext) (by rw [hact, hin])

/-- A whole operation's sequence, from its first step on, is as many steps of the machine as its table has. -/
theorem run_core_whole {s : State} {a : Active} {n : Nat} (ha : s.active = a)
    (hq : s.seq = (sequenceOf a).headD .none) (hin : stagedOutside a = false) (hn : (sequenceOf a).length = n) :
    Host.Core.run core n s = .next (runSteps (sequenceOf a) s) := by
  subst ha hn
  exact run_core_suffix (pre := []) rfl hq hin

/-- Settles O52: full_update's table has seven steps. -/
theorem fullUpdateStepByStep : Obligations.FullUpdateStepByStep := by
  unfold Obligations.FullUpdateStepByStep
  intro s hr
  rw [exec_fullUpdate hr]
  exact run_core_whole (startFullUpdate_active s) rfl rfl rfl

/-- Settles O53: region_update's table has twenty-one steps, and its rectangle lies inside BUF. -/
theorem regionUpdateStepByStep : Obligations.RegionUpdateStepByStep := by
  unfold Obligations.RegionUpdateStepByStep
  intro s x y w h hr hw hh hx hy hc
  rw [exec_regionUpdate_in hr hw hh hx hy hc]
  exact run_core_whole (startRegionUpdate_active x y w h s) rfl (exceedsBounds_false hx hy) rfl

end Sys2Proof.Machine

namespace Sys2Proof.Machine

open Sys2Proof.Safety

/-! ### The polling refinement (R166) -/

/-- The timeout in ticks, with the source's BUSY_TIMEOUT_MS (R7, R166). -/
theorem timedOutAt_iff (t0 now : Nat) : timedOutAt t0 now = true ↔ 40000 * Config.tickHz ≤ (now - t0) * 1000 :=
  decide_eq_true_iff

/-- The spacing in ticks, with the source's POLL_INTERVAL_MS (R7, R166). -/
theorem spaced_cons_iff (last : Nat) (p : Sample) (ps : List Sample) :
    spaced last (p :: ps) = true ↔ last * 1000 + 10 * Config.tickHz ≤ p.now * 1000 ∧ spaced p.now ps = true := by
  rw [spaced, Bool.and_eq_true, decide_eq_true_eq]
  exact Iff.rfl

/-- A ready sample answers, whatever the clock says (log entry 26). -/
theorem pollLoop_ready {t0 : Nat} {p : Sample} (hp : p.ready = true) (ps : List Sample) :
    pollLoop t0 (p :: ps) = some .readyOk := by
  rw [pollLoop, if_pos hp]

/-- A sample that is not ready answers once BUSY_TIMEOUT_MS has passed. -/
theorem pollLoop_timedOut {t0 : Nat} {p : Sample} (hp : p.ready = false)
    (ht : 40000 * Config.tickHz ≤ (p.now - t0) * 1000) (ps : List Sample) :
    pollLoop t0 (p :: ps) = some .timedOut := by
  rw [pollLoop, if_neg (by simp [hp]), if_pos ((timedOutAt_iff ..).2 ht)]

/-- A sample that is not ready, taken before BUSY_TIMEOUT_MS has passed, leads to the next one. -/
theorem pollLoop_goesOn {t0 : Nat} {p : Sample} (hp : p.ready = false)
    (ht : (p.now - t0) * 1000 < 40000 * Config.tickHz) (ps : List Sample) :
    pollLoop t0 (p :: ps) = pollLoop t0 ps := by
  rw [pollLoop, if_neg (by simp [hp]), if_neg (by rw [timedOutAt_iff]; omega)]

/-- The loop answers when the intervals still to come, at their least, reach the timeout (R166). -/
theorem pollLoop_ne_none {t0 : Nat} {p : Sample} {ps : List Sample} (h0 : t0 ≤ p.now) (hs : spaced p.now ps = true)
    (hreach : t0 * 1000 + 40000 * Config.tickHz ≤ p.now * 1000 + ps.length * (10 * Config.tickHz)) :
    pollLoop t0 (p :: ps) ≠ none := by
  induction ps generalizing p with
  | nil =>
    rw [List.length_nil, Nat.zero_mul, Nat.add_zero] at hreach
    cases hp : p.ready with
    | true => simp [pollLoop_ready hp]
    | false => simp [pollLoop_timedOut hp (by omega : 40000 * Config.tickHz ≤ (p.now - t0) * 1000)]
  | cons p' rest ih =>
    cases hp : p.ready with
    | true => simp [pollLoop_ready hp]
    | false =>
      by_cases ht : 40000 * Config.tickHz ≤ (p.now - t0) * 1000
      · simp [pollLoop_timedOut hp ht]
      · obtain ⟨hgap, hrest⟩ := (spaced_cons_iff ..).1 hs
        rw [List.length_cons, add_one_mul] at hreach
        rw [pollLoop_goesOn hp (by omega)]
        exact ih (by omega) hrest (by linarith)

/-- The samples the loop passes over before it answers: none of them ready, all taken before BUSY_TIMEOUT_MS has
passed. -/
def PassedOver (t0 : Nat) (before : List Sample) : Prop :=
  ∀ q ∈ before, q.ready = false ∧ (q.now - t0) * 1000 < 40000 * Config.tickHz

/-- An answer comes with one sample, after samples passed over: READY_OK because that sample is ready, TIMED_OUT because
it is not and BUSY_TIMEOUT_MS has passed. -/
theorem pollLoop_some_inv {t0 : Nat} {ps : List Sample} {r : ReadyAnswer} (h : pollLoop t0 ps = some r) :
    ∃ before p after, ps = before ++ p :: after ∧ PassedOver t0 before
      ∧ (r = .readyOk ∧ p.ready = true
        ∨ r = .timedOut ∧ p.ready = false ∧ 40000 * Config.tickHz ≤ (p.now - t0) * 1000) := by
  induction ps with
  | nil => cases h
  | cons p rest ih =>
    cases hp : p.ready with
    | true =>
      rw [pollLoop_ready hp] at h
      cases h
      exact ⟨[], p, rest, rfl, nofun, .inl ⟨rfl, hp⟩⟩
    | false =>
      by_cases ht : 40000 * Config.tickHz ≤ (p.now - t0) * 1000
      · rw [pollLoop_timedOut hp ht] at h
        cases h
        exact ⟨[], p, rest, rfl, nofun, .inr ⟨rfl, hp, ht⟩⟩
      · rw [pollLoop_goesOn hp (by omega)] at h
        obtain ⟨before, p', after, rfl, hpassed, hanswer⟩ := ih h
        exact ⟨p :: before, p', after, rfl, List.forall_mem_cons.2 ⟨⟨hp, by omega⟩, hpassed⟩, hanswer⟩

/-- Settles O59: 4000 intervals of POLL_INTERVAL_MS make BUSY_TIMEOUT_MS, and an answer tells of the samples before it. -/
theorem pollLoopAnswers : Obligations.PollLoopAnswers := by
  unfold Obligations.PollLoopAnswers
  refine ⟨?_, ?_, ?_⟩
  · intro t0 p ps h0 hs hlen
    have hintervals : 4000 * (10 * Config.tickHz) ≤ ps.length * (10 * Config.tickHz) := Nat.mul_le_mul_right _ hlen
    exact pollLoop_ne_none h0 hs (by omega)
  · intro t0 ps h
    obtain ⟨before, p, after, hps, hpassed, ⟨-, hready⟩ | ⟨hr, -⟩⟩ := pollLoop_some_inv h
    · exact ⟨before, p, after, hps, hready, hpassed⟩
    · cases hr
  · intro t0 ps h
    obtain ⟨before, p, after, hps, hpassed, ⟨hr, -⟩ | ⟨-, hready, htime⟩⟩ := pollLoop_some_inv h
    · cases hr
    · refine ⟨before, p, after, hps, ?_, htime⟩
      exact List.forall_mem_append.2 ⟨fun q hq => (hpassed q hq).1, List.forall_mem_singleton.2 hready⟩

end Sys2Proof.Machine

namespace Sys2Proof.Safety

open Sys2Proof.Machine

/-! ### The same trace (R172) -/

/-- Splitting a DAT does not change the coalesced trace. -/
theorem coalesce_splitsDat {es fs : List Event} (h : SplitsDat es fs) : coalesce es = coalesce fs := by
  cases h with
  | split es fs bs cs =>
    rw [List.append_assoc, List.append_assoc]
    exact coalesce_append_congr (by simp [coalesce]) es

/-- A split stays one when an event is put before the trace. -/
theorem SplitsDat.cons (e : Event) {es fs : List Event} (h : SplitsDat es fs) : SplitsDat (e :: es) (e :: fs) := by
  cases h with
  | split es fs bs cs => exact .split (e :: es) fs bs cs

/-- Traces that splitting and joining lead from one to the other stay so when an event is put before both. -/
theorem eqvGen_splitsDat_cons (e : Event) {es fs : List Event} (h : Relation.EqvGen SplitsDat es fs) :
    Relation.EqvGen SplitsDat (e :: es) (e :: fs) := by
  induction h with
  | rel es fs h => exact .rel _ _ (h.cons e)
  | refl es => exact .refl _
  | symm es fs _ ih => exact .symm _ _ ih
  | trans es fs gs _ _ ih1 ih2 => exact .trans _ _ _ ih1 ih2

/-- Joining a DAT to the one that comes next is a split undone. -/
theorem eqvGen_joinDat (bs : List Byte) (es : List Event) :
    Relation.EqvGen SplitsDat (.dat bs :: es) (joinDat bs es) := by
  cases es with
  | nil => exact .refl _
  | cons e rest =>
    cases e with
    | dat cs => exact .symm _ _ (.rel _ _ (.split [] rest bs cs))
    | rst | cmd | dly | wait | warn => exact .refl _

/-- Splitting and joining lead from a trace to its coalesced form. -/
theorem eqvGen_coalesce (es : List Event) : Relation.EqvGen SplitsDat es (coalesce es) := by
  induction es with
  | nil => exact .refl _
  | cons e rest ih =>
    cases e with
    | dat bs => exact .trans _ _ _ (eqvGen_splitsDat_cons (.dat bs) ih) (eqvGen_joinDat bs (coalesce rest))
    | rst | cmd | dly | wait | warn => exact eqvGen_splitsDat_cons _ ih

/-- Two traces are the same exactly when splitting and joining lead from one to the other: both lead to the coalesced
form, and neither changes it (R172). -/
theorem sameTrace_iff_eqvGen (es fs : List Event) : SameTrace es fs ↔ Relation.EqvGen SplitsDat es fs := by
  constructor
  · intro h
    have hfs := eqvGen_coalesce fs
    rw [← show coalesce es = coalesce fs from h] at hfs
    exact .trans _ _ _ (eqvGen_coalesce es) (.symm _ _ hfs)
  · intro h
    induction h with
    | rel es fs h => exact coalesce_splitsDat h
    | refl es => rfl
    | symm es fs _ ih => exact ih.symm
    | trans es fs gs _ _ ih1 ih2 => exact ih1.trans ih2

/-- Data handed over in pieces coalesces as handed over at once (R172). -/
theorem coalesce_pieces {pieces : List (List Byte)} (hne : pieces ≠ []) (rest : List Event) :
    coalesce (.dat pieces.flatten :: rest) = coalesce (pieces.map .dat ++ rest) := by
  induction pieces with
  | nil => exact absurd rfl hne
  | cons bs more ih =>
    cases more with
    | nil => simp
    | cons cs more =>
      have hmore := ih (by simp)
      rw [coalesce] at hmore
      rw [List.map_cons, List.cons_append, coalesce, coalesce, ← hmore, joinDat_joinDat, List.flatten_cons]

/-- Settles O60: the two notions agree, and full_update hands BUF over as one piece. -/
theorem chunkingNotObservable : Obligations.ChunkingNotObservable := by
  unfold Obligations.ChunkingNotObservable
  refine ⟨sameTrace_iff_eqvGen, ?_⟩
  intro s pieces hr hemu hne hpieces
  obtain ⟨t, hexec, htrace⟩ := fullUpdateTrace s hr
  refine ⟨t, hexec, ?_⟩
  rw [htrace, hemu, ← hpieces, List.append_assoc]
  exact coalesce_append_congr (coalesce_pieces hne (tailTrace s.env.ready)) [.cmd Config.cmdDataStart]

end Sys2Proof.Safety

namespace Sys2Proof.Machine

open Sys2Proof.Safety

/-! ### How a host operation ends (R12, R170) -/

/-- The operations that run a sequence of the panel: initialize and the two updates (R167, R169, R220). -/
def RunsSequence (i : Instr) : Prop :=
  (∃ e, i = .initialise e) ∨ i = .fullUpdate ∨ ∃ x y w h, i = .regionUpdate x y w h

/-- A host operation that answers has returned with no event, or has run a whole sequence from an empty trace. -/
theorem execHost_inv {i : Instr} {s t : State} (hi : commandByte i = none) (h : exec i s = .next t) :
    (∃ r u, u.trace = [] ∧ complete r u = t)
      ∨ RunsSequence i ∧ ∃ a u, a ≠ .idle ∧ u.active = a ∧ u.trace = [] ∧ runSteps (sequenceOf a) u = t := by
  cases i <;> simp only [commandByte, reduceCtorEq] at hi
  case initialise e =>
    obtain ⟨-, ⟨-, rfl⟩ | ⟨-, rfl⟩⟩ := execInitialise_inv h
    · exact .inl ⟨_, _, rfl, rfl⟩
    · exact .inr ⟨.inl ⟨e, rfl⟩, _, _, by decide, startInitialise_active e _, rfl, rfl⟩
  case destroy =>
    obtain ⟨-, rfl⟩ := execDestroy_inv h
    exact .inl ⟨_, _, rfl, rfl⟩
  case clear c =>
    obtain ⟨-, rfl⟩ := execClear_inv h
    exact .inl ⟨_, _, rfl, rfl⟩
  case setPixel x y c =>
    obtain ⟨-, ⟨-, -, rfl⟩ | rfl⟩ := execSetPixel_inv h
    · exact .inl ⟨_, _, rfl, rfl⟩
    · exact .inl ⟨_, _, rfl, rfl⟩
  case getPixel x y =>
    obtain ⟨-, r, rfl⟩ := execGetPixel_inv h
    exact .inl ⟨r, _, rfl, rfl⟩
  case setBorder c =>
    obtain ⟨-, rfl⟩ := execSetBorder_inv h
    exact .inl ⟨_, _, rfl, rfl⟩
  case fullUpdate =>
    obtain ⟨-, rfl⟩ := execFullUpdate_inv h
    exact .inr ⟨.inr (.inl rfl), _, _, by decide, startFullUpdate_active s, rfl, rfl⟩
  case regionUpdate x y w h' =>
    obtain ⟨-, -, rfl | ⟨-, -, rfl⟩⟩ := execRegionUpdate_inv h
    · exact .inl ⟨_, _, rfl, rfl⟩
    · exact .inr ⟨.inr (.inr ⟨x, y, w, h', rfl⟩), _, _, by simp, startRegionUpdate_active x y w h' s, rfl, rfl⟩
  case shouldFullRefresh =>
    obtain ⟨-, r, rfl⟩ := execShouldFullRefresh_inv h
    exact .inl ⟨r, _, rfl, rfl⟩
  case partialCount =>
    obtain ⟨-, rfl⟩ := execPartialCount_inv h
    exact .inl ⟨_, _, rfl, rfl⟩
  case extractRegion x y w h' =>
    obtain ⟨-, r, rfl | rfl⟩ := execExtractRegion_inv h
    · exact .inl ⟨r, _, rfl, rfl⟩
    · exact .inl ⟨r, _, stageRegion_trace x y w h' (beginOp s), rfl⟩
  case exportImage rest => cases h

/-- A host operation that answers leaves SEQ = NONE (R27). -/
theorem execHost_seq {i : Instr} {s t : State} (hi : commandByte i = none) (h : exec i s = .next t) :
    t.seq = .none := by
  obtain ⟨r, u, -, rfl⟩ | ⟨-, a, u, hne, ha, -, rfl⟩ := execHost_inv hi h
  · exact complete_seq r u
  · exact (runSteps_whole ha hne).1

/-- What runs between operations is a host operation: no panel command stands at SEQ = NONE (R27, R170). -/
theorem commandByte_of_seq_none {i : Instr} {s t : State} (hq : s.seq = .none) (h : exec i s = .next t) :
    commandByte i = none := by
  by_contra hi
  obtain ⟨hc, -⟩ := execPanel_inv (Option.isSome_iff_ne_none.2 hi) h
  exact seq_ne_none_of_commandAt hc hq

/-- A step from SEQ = NONE ends there (R170, R285). -/
theorem step_seq_of_seq_none {s t : State} (hq : s.seq = .none) (h : step s = .next t) : t.seq = .none := by
  obtain ⟨i, s1, hf, he⟩ | ⟨hf, -⟩ | ⟨s1, -, rfl⟩ | ⟨-, rfl⟩ := step_inv h
  · obtain ⟨-, w, rest, -, -, rfl⟩ | ⟨hne, -⟩ := fetch_run_inv hf
    · exact execHost_seq (commandByte_of_seq_none (s := setHost rest s) hq he) he
    · exact absurd hq hne
  · exact absurd hq (seq_ne_none_of_internal hf)
  · rfl
  · exact hq

theorem restPhase_iff (p : PState) :
    restPhase p = true ↔ p = .uninitialized ∨ p = .configured ∨ p = .poweredOff := by
  simp [restPhase, or_assoc]

/-- Settles O51: the step ends with SEQ = NONE and the invariant, which ties PSTATE to it. -/
theorem operationsEndAtRest : Obligations.OperationsEndAtRest := by
  unfold Obligations.OperationsEndAtRest
  intro s t hs hq h
  have hseq := step_seq_of_seq_none hq h
  obtain ⟨-, hrest⟩ := rest_of_seq_none (stepKeepsInvariant s t hs h) hseq
  exact ⟨hseq, (restPhase_iff t.pstate).1 hrest⟩

/-! ### Who emits (R162, R173) -/

/-- Settles O57: only a sequence has events, and only on the real backend. -/
theorem whoEmits : Obligations.WhoEmits := by
  unfold Obligations.WhoEmits
  intro i s t hi h
  obtain ⟨r, u, hu, rfl⟩ | ⟨hruns, a, u, hne, ha, hu, rfl⟩ := execHost_inv hi h
  · have htrace : (complete r u).trace = [] := hu
    exact ⟨fun _ _ => htrace, fun _ _ _ => htrace⟩
  · constructor
    · intro hemu _
      rw [runSteps_emu] at hemu
      rw [runSteps_trace ha hne hu, if_pos hemu]
    · intro hini hful hreg
      obtain ⟨e, rfl⟩ | rfl | ⟨x, y, w, h', rfl⟩ := hruns
      · exact absurd rfl (hini e)
      · exact absurd rfl hful
      · exact absurd rfl (hreg x y w h')

/-! ### What the backend makes no difference to (R162) -/

/-- The result, BUF, BORDER, PCOUNT, LFRT and PSTATE are the same. -/
def SameButTrace (t u : State) : Prop :=
  u.result = t.result ∧ u.buf = t.buf ∧ u.border = t.border ∧ u.pcount = t.pcount ∧ u.lfrt = t.lfrt
    ∧ u.pstate = t.pstate

theorem sameButTrace_refl (t : State) : SameButTrace t t := ⟨rfl, rfl, rfl, rfl, rfl, rfl⟩

/-- An operation that returns does the same on either backend (R162). -/
theorem complete_setEmu_sameButTrace (e : Bool) (r : Result) (s : State) :
    SameButTrace (complete r s) (complete r (setEmu e s)) :=
  ⟨rfl, rfl, rfl, rfl, rfl, rfl⟩

/-- A whole sequence does the same on either backend but for its trace (R162). -/
theorem runSteps_setEmu_sameButTrace {s : State} {a : Active} (e : Bool) (ha : s.active = a) (hne : a ≠ .idle) :
    SameButTrace (runSteps (sequenceOf a) s) (runSteps (sequenceOf a) (setEmu e s)) := by
  obtain ⟨-, -, -, hresult, -⟩ := runSteps_whole ha hne
  obtain ⟨-, -, -, hresult', -⟩ := runSteps_whole (s := setEmu e s) ha hne
  refine ⟨hresult'.trans hresult.symm, ?_, ?_, ?_, ?_, ?_⟩
  · rw [runSteps_buf, runSteps_buf, setEmu_buf]
  · rw [runSteps_border, runSteps_border, setEmu_border]
  · rw [runSteps_pcount, runSteps_pcount, setEmu_pcount]
  · rw [runSteps_lfrt, runSteps_lfrt, setEmu_lfrt]
  · rw [runSteps_pstate, runSteps_pstate, setEmu_pstate]

/-- An extent that is not zero (R114, R169). -/
theorem one_le_of_zeroExtent_false {w h : Coord} (hz : zeroExtent w h = false) : 1 ≤ w.toNat ∧ 1 ≤ h.toNat := by
  rw [← Bool.not_eq_true, zeroExtent_iff] at hz
  omega

/-- region_update passes the same checks on either backend, then runs the same sequence (R162, R168, R169). -/
theorem exec_regionUpdate_setEmu {s t : State} {x y w h : Coord} (e : Bool)
    (he : exec (.regionUpdate x y w h) s = .next t) :
    ∃ u, exec (.regionUpdate x y w h) (setEmu e s) = .next u ∧ SameButTrace t u := by
  obtain ⟨hr, hz, -⟩ := execRegionUpdate_inv he
  obtain ⟨hw, hh⟩ := one_le_of_zeroExtent_false hz
  by_cases ho : 600 < x.toNat + w.toNat ∨ 448 < y.toNat + h.toNat
  · rw [exec_regionUpdate_out hr hw hh ho] at he
    obtain rfl := next_inj he
    exact ⟨_, exec_regionUpdate_out (s := setEmu e s) hr hw hh ho, complete_setEmu_sameButTrace e _ (beginOp s)⟩
  · have hx : x.toNat + w.toNat ≤ 600 := by omega
    have hy : y.toNat + h.toNat ≤ 448 := by omega
    cases hmax : countAtMax s with
    | true =>
      rw [exec_regionUpdate_countAtMax hr hw hh hx hy hmax] at he
      cases he
    | false =>
      have hc : s.pcount.toNat < 2 ^ 32 - 1 := by
        have hlt := s.pcount.isLt
        rw [countAtMax, beq_eq_false_iff_ne] at hmax
        omega
      rw [exec_regionUpdate_in hr hw hh hx hy hc] at he
      obtain rfl := next_inj he
      exact ⟨_, exec_regionUpdate_in (s := setEmu e s) hr hw hh hx hy hc,
        runSteps_setEmu_sameButTrace e (startRegionUpdate_active x y w h s) (by simp)⟩

theorem beginOp_setEmu (e : Bool) (s : State) : beginOp (setEmu e s) = setEmu e (beginOp s) := rfl

/-- Staging a rectangle is the same on either backend. -/
theorem stageRegion_setEmu (x y w h : Coord) (e : Bool) (s : State) :
    stageRegion x y w h (setEmu e s) = setEmu e (stageRegion x y w h s) := by
  unfold stageRegion
  dsimp only
  split <;> rfl

/-- extract_region is the same on either backend (R114, R162). -/
theorem exec_extractRegion_setEmu {s t : State} {x y w h : Coord} (e : Bool)
    (he : exec (.extractRegion x y w h) s = .next t) :
    ∃ u, exec (.extractRegion x y w h) (setEmu e s) = .next u ∧ SameButTrace t u := by
  obtain ⟨hr, -⟩ := execExtractRegion_inv he
  cases hz : zeroExtent w h with
  | true =>
    rw [exec_extractRegion_zeroExtent x y hr hz] at he
    cases he
  | false =>
    obtain ⟨hw, hh⟩ := one_le_of_zeroExtent_false hz
    by_cases ho : 600 < x.toNat + w.toNat ∨ 448 < y.toNat + h.toNat
    · rw [exec_extractRegion_out hr hw hh ho] at he
      obtain rfl := next_inj he
      exact ⟨_, exec_extractRegion_out (s := setEmu e s) hr hw hh ho, complete_setEmu_sameButTrace e _ (beginOp s)⟩
    · have hx : x.toNat + w.toNat ≤ 600 := by omega
      have hy : y.toNat + h.toNat ≤ 448 := by omega
      rw [exec_extractRegion_in hr hw hh hx hy] at he
      obtain rfl := next_inj he
      refine ⟨_, exec_extractRegion_in (s := setEmu e s) hr hw hh hx hy, ?_⟩
      rw [beginOp_setEmu, stageRegion_setEmu]
      exact complete_setEmu_sameButTrace e _ (stageRegion x y w h (beginOp s))

/-- set_border refuses a colour above 7 (R222). -/
theorem exec_setBorder_aboveSeven {s : State} {c : Byte} (hr : Ready s) (hc : 7 < c.toNat) :
    exec (.setBorder c) s = .refused .borderAboveSeven := by
  rw [exec, execSetBorder, ifAdmitted_ready hr, if_pos hc]

/-- Settles O58: the meaning of each operation reads EMU only where it emits; initialize overwrites it. -/
theorem backendMakesNoOtherDifference : Obligations.BackendMakesNoOtherDifference := by
  unfold Obligations.BackendMakesNoOtherDifference
  intro i s t e hi h
  change ∃ u, exec i (setEmu e s) = .next u ∧ SameButTrace t u
  cases i <;> simp only [commandByte, reduceCtorEq] at hi
  case initialise b =>
    obtain ⟨hv, ⟨hf, rfl⟩ | ⟨hf, rfl⟩⟩ := execInitialise_inv h
    · exact ⟨_, exec_initialise_failed (s := setEmu e s) hv hf,
        complete_setEmu_sameButTrace e _ (redrawFault (beginOp s))⟩
    · exact ⟨_, exec_initialise_ok (s := setEmu e s) hv hf, sameButTrace_refl _⟩
  case destroy =>
    obtain ⟨hr, rfl⟩ := execDestroy_inv h
    exact ⟨_, exec_destroy (s := setEmu e s) hr, sameButTrace_refl _⟩
  case clear c =>
    obtain ⟨hr, rfl⟩ := execClear_inv h
    exact ⟨_, exec_clear (s := setEmu e s) c hr, complete_setEmu_sameButTrace e _ (setBuf _ (beginOp s))⟩
  case setPixel x y c =>
    have hr := (execSetPixel_inv h).1
    by_cases hin : x.toNat < 600 ∧ y.toNat < 448
    · rw [exec_setPixel_in c hr hin.1 hin.2] at h
      obtain rfl := next_inj h
      exact ⟨_, exec_setPixel_in (s := setEmu e s) c hr hin.1 hin.2,
        complete_setEmu_sameButTrace e _ (setBuf _ (beginOp s))⟩
    · have hout : 600 ≤ x.toNat ∨ 448 ≤ y.toNat := by omega
      rw [exec_setPixel_out c hr hout] at h
      obtain rfl := next_inj h
      exact ⟨_, exec_setPixel_out (s := setEmu e s) c hr hout, complete_setEmu_sameButTrace e _ (beginOp s)⟩
  case getPixel x y =>
    have hr := (execGetPixel_inv h).1
    rw [exec_getPixel x y hr] at h
    obtain rfl := next_inj h
    exact ⟨_, exec_getPixel (s := setEmu e s) x y hr, complete_setEmu_sameButTrace e _ (beginOp s)⟩
  case setBorder c =>
    have hr := (execSetBorder_inv h).1
    by_cases hc : c.toNat ≤ 7
    · rw [exec_setBorder hr hc] at h
      obtain rfl := next_inj h
      exact ⟨_, exec_setBorder (s := setEmu e s) hr hc, complete_setEmu_sameButTrace e _ (setBorder _ (beginOp s))⟩
    · rw [exec_setBorder_aboveSeven hr (by omega)] at h
      cases h
  case fullUpdate =>
    obtain ⟨hr, rfl⟩ := execFullUpdate_inv h
    exact ⟨_, exec_fullUpdate (s := setEmu e s) hr,
      runSteps_setEmu_sameButTrace e (startFullUpdate_active s) (by decide)⟩
  case regionUpdate x y w h' => exact exec_regionUpdate_setEmu e h
  case shouldFullRefresh =>
    have hr := (execShouldFullRefresh_inv h).1
    rw [exec_shouldFullRefresh hr] at h
    obtain rfl := next_inj h
    exact ⟨_, exec_shouldFullRefresh (s := setEmu e s) hr, complete_setEmu_sameButTrace e _ (tick (beginOp s))⟩
  case partialCount =>
    obtain ⟨hr, rfl⟩ := execPartialCount_inv h
    exact ⟨_, exec_partialCount (s := setEmu e s) hr, complete_setEmu_sameButTrace e _ (beginOp s)⟩
  case extractRegion x y w h' => exact exec_extractRegion_setEmu e h
  case exportImage rest => cases h

end Sys2Proof.Machine

namespace Sys2Proof.Machine

open Sys2Proof.Safety

/-! ### initialize (R220, R164, R249) -/

/-- initialize ends with the panel configured (R163, R164). -/
theorem runSteps_initialise_pstate (s : State) : (runSteps (sequenceOf .initialise) s).pstate = .configured := by
  rw [runSteps_pstate]; rfl

/-- Settles O34: the context is filled before the first step of InitSeq, and no step of it writes BUF, BORDER, PCOUNT, LFRT
or EMU. -/
theorem initializeCreatesContext : Obligations.InitializeCreatesContext := by
  unfold Obligations.InitializeCreatesContext
  intro s e hv hf
  have hclk := startInitialise_clk e (redrawFault (beginOp s))
  refine ⟨_, exec_initialise_ok hv hf, runSteps_returned rfl (by decide) rfl hclk, ?_, ?_, ?_, ?_, ?_, ?_,
    runSteps_initialise_pstate _⟩
  · intro a ha
    rw [runSteps_buf, startInitialise_buf, memRead_memFill _ ha]
    rfl
  · rw [runSteps_border, startInitialise_border]
  · rw [runSteps_pcount, startInitialise_pcount]
  · rw [runSteps_lfrt]
    exact hclk
  · rw [runSteps_lfrt]
    exact runSteps_clk _ (startInitialise e (redrawFault (beginOp s)))
  · rw [runSteps_emu, startInitialise_emu]

/-- Settles O35: the trace is that of InitSeq's table, with the border colour of the fresh context. -/
theorem initializeTrace : Obligations.InitializeTrace := by
  unfold Obligations.InitializeTrace
  intro s e hv hf
  refine ⟨_, exec_initialise_ok hv hf, ?_⟩
  rw [runSteps_trace (startInitialise_active e _) (by decide) rfl, sequenceOf, eventsOf_initSteps,
    startInitialise_border, startInitialise_emu]

/-- Settles O54: InitSeq's table has eleven steps. -/
theorem initializeStepByStep : Obligations.InitializeStepByStep := by
  unfold Obligations.InitializeStepByStep
  intro s e hv hf
  rw [exec_initialise_ok hv hf]
  exact run_core_whole (startInitialise_active e _) rfl rfl rfl

/-- RESOURCE stops initialize on either backend, TRANSPORT on the real one alone (R220). -/
theorem initFault_ne_none {e : Bool} {f : InitFault} (h : f = .resource ∨ f = .transport ∧ e = false) :
    initFault e f ≠ .none := by
  obtain rfl | ⟨rfl, rfl⟩ := h
  · cases e <;> decide
  · decide

/-- Settles O36: on a fault initialize only draws it and returns. -/
theorem initializeFails : Obligations.InitializeFails := by
  unfold Obligations.InitializeFails
  intro s e hv hfault
  exact ⟨_, exec_initialise_failed hv (initFault_ne_none hfault), complete_returned _ rfl le_rfl, rfl,
    complete_sameRegisters _ (redrawFault (beginOp s)), fun _ => rfl⟩

/-! ### The context rule (R224) and destroy (R221) -/

/-- Without a context every host operation but initialize is refused by its admission (R224). -/
theorem exec_noContext {s : State} {i : Instr} (hv : Vacant s) (hc : commandByte i = none)
    (hini : ∀ e, i ≠ .initialise e) (hexport : ∀ r, i ≠ .exportImage r) : exec i s = .refused .noContext := by
  cases i <;> simp only [commandByte, reduceCtorEq] at hc
  case initialise e => exact absurd rfl (hini e)
  case exportImage rest => exact absurd rfl (hexport rest)
  all_goals exact ifAdmitted_vacant hv _

/-- initialize is refused while a context exists (R224). -/
theorem exec_initialise_contextExists {s : State} (e : Bool) (hr : Ready s) :
    exec (.initialise e) s = .refused .contextExists := by
  rw [exec, execInitialise, if_neg (not_not.2 hr.1), if_pos hr.2]

/-- Settles O39, by the admission of each operation. -/
theorem contextRuleRefused : Obligations.ContextRuleRefused :=
  ⟨fun _ _ => exec_noContext, fun _ => exec_initialise_contextExists⟩

/-- Settles O37: destroy leaves the block vacant, where the context rule refuses. -/
theorem destroyEndsContext : Obligations.DestroyEndsContext := by
  unfold Obligations.DestroyEndsContext
  intro s hr
  exact ⟨_, exec_destroy hr, complete_returned _ rfl le_rfl, rfl, rfl,
    fun _ => exec_noContext ⟨rfl, rfl⟩⟩

/-! ### set_border (R222) -/

/-- The three low bits of a colour up to 7 are the colour (R222). -/
theorem borderBits_toNat {c : Byte} (hc : c.toNat ≤ 7) : (c.extractLsb' 0 3).toNat = c.toNat := by
  rw [BitVec.extractLsb'_toNat, Nat.shiftRight_zero]
  exact Nat.mod_eq_of_lt (by omega)

/-- Settles O38: a colour up to 7 is written, a larger one is refused after the admission. -/
theorem setBorderWritesBorder : Obligations.SetBorderWritesBorder := by
  unfold Obligations.SetBorderWritesBorder
  intro s c hr
  refine ⟨fun hc => ?_, exec_setBorder_aboveSeven hr⟩
  exact ⟨_, exec_setBorder hr hc, complete_returned _ rfl le_rfl, rfl, borderBits_toNat hc, rfl, rfl, rfl, rfl,
    fun _ => rfl⟩

end Sys2Proof.Machine

namespace Sys2Proof.Machine

open Sys2Proof.Safety

/-! ### The idle block (R257, R285) -/

/-- With no sequence in progress and no host input pending the step is idle. -/
theorem step_nothing {s : State} (hq : s.seq = .none) (hh : s.host = []) : step s = .next (idleStep s) := by
  simp only [step, fetch, if_pos hq, fetchHost, hh]

/-- An idle step keeps every register. -/
theorem idleStep_sameRegisters (s : State) : SameRegisters s (idleStep s) :=
  ⟨tick_border s, tick_pcount s, tick_lfrt s, tick_pstate s, tick_emu s⟩

/-- An idle step keeps every byte of BUF. -/
theorem idleStep_sameBuffer (s : State) : SameBuffer s (idleStep s) :=
  fun a => congrArg (memRead · a) (tick_buf s)

/-- Settles O11: the step is the idle step, in which only the environment moves, and the clock not back. -/
theorem idleBlockKeepsState : Obligations.IdleBlockKeepsState := by
  unfold Obligations.IdleBlockKeepsState
  intro s hq hh
  exact ⟨idleStep s, step_nothing hq hh, idleStep_sameRegisters s, idleStep_sameBuffer s, (tick_seq s).trans hq,
    (tick_host s).trans hh, tick_result s, tick_trace s, tick_rbuf s, tick_clk s⟩

end Sys2Proof.Machine

namespace Sys2Proof.Machine

/-! ### Hardware reset (R270) -/

/-- A hardware reset next in line, with no sequence in progress, is taken out of `host` and done. -/
theorem step_hardwareReset {s : State} {rest : List HostInput} (hq : s.seq = .none)
    (hh : s.host = .hardwareReset :: rest) : step s = .next (hardwareReset (setHost rest s)) := by
  simp only [step, fetch, if_pos hq, fetchHost, hh]

/-- After a hardware reset there is no context. -/
@[simp] theorem hardwareReset_pstate (s : State) : (hardwareReset s).pstate = .uninitialized := rfl

/-- After a hardware reset no sequence is in progress. -/
@[simp] theorem hardwareReset_seq (s : State) : (hardwareReset s).seq = .none := rfl

/-- A hardware reset has no event. -/
@[simp] theorem hardwareReset_trace (s : State) : (hardwareReset s).trace = [] := rfl

/-- The operations the host issues after a hardware reset stay pending. -/
@[simp] theorem hardwareReset_host (s : State) : (hardwareReset s).host = s.host := rfl

/-- Settles O12: the reset state has these values, and the step is the hardware reset, which writes them. -/
theorem hardwareResetEndsContext : Obligations.HardwareResetEndsContext := by
  unfold Obligations.HardwareResetEndsContext
  refine ⟨⟨rfl, rfl, rfl⟩, fun s rest hq hh => ?_⟩
  exact ⟨hardwareReset (setHost rest s), step_hardwareReset hq hh, hardwareReset_pstate _, hardwareReset_seq _,
    hardwareReset_trace _, (hardwareReset_host _).trans (setHost_host rest s)⟩

end Sys2Proof.Machine
